-- ==== Sys2Proof/Word.lean ====
section
/-! DEFINITION. The word types of the block and the seven frame registers as one plain record
(`10_state.md` rule R11). All values are unsigned (`00_scope.md` rule R8). -/

namespace Sys2Proof

/-- One byte: a frame register, or one byte of the non-volatile store. -/
abbrev Byte := BitVec 8

/-- A 32-bit value: the rolling code `RC` and the content of a slot (rules R22, R69). -/
abbrev Word := BitVec 32

/-- A 4-bit field: `sel`, `arg`, a command code, a sync count. -/
abbrev Nibble := BitVec 4

/-- Seven bytes `[0]` to `[6]` (rule R11): the frame registers `F`, and the plain frame `P`.
The field each byte carries before obfuscation (rule R12) is named beside it. -/
structure Frame where
  /-- `KEY` -/
  f0 : Byte
  /-- `CTRL`: command code in bits 7:4, checksum in bits 3:0 -/
  f1 : Byte
  /-- `RC_HI` -/
  f2 : Byte
  /-- `RC_LO` -/
  f3 : Byte
  /-- `ADDR_HI` -/
  f4 : Byte
  /-- `ADDR_MID` -/
  f5 : Byte
  /-- `ADDR_LO` -/
  f6 : Byte
  deriving DecidableEq, Repr, Inhabited

end Sys2Proof
end

