-- ==== Sys2Proof/Config.lean ====
section
/-! DEFINITION. What is fixed for one instance of the block: the configuration record `CFG`
(`00_scope.md` rule R1), the constants of rule R2, and the free values of the model.

`CFG` is an argument of the model (rule R1). The step function of the interface takes a state and
nothing else, so the argument stands in the state (field `cfg`), where no operation writes it; every
statement is about every value of it. -/

namespace Sys2Proof

/-- How frame byte 0 is derived (rules R1, R101, R102). -/
inductive KeyMode where
  | fixed
  | dynamic
  deriving DecidableEq, Repr, Inhabited

/-- `NV_ENDIAN`: the order of the four bytes of a slot in the store, an open parameter
(`20_memory.md` rule R48). -/
inductive Endian where
  | little
  | big
  deriving DecidableEq, Repr, Inhabited

/-- `K_REPEAT`, the repeat frames after the first: 2 or 4 and no other number (`44_remote_controller.md` rule
R167; `90_conflicts.md` C1: "A model must not admit `K_REPEAT` = 3"). -/
inductive RepeatCount where
  | two
  | four
  deriving DecidableEq, Repr, Inhabited

/-- The number of repeat frames. -/
def RepeatCount.count : RepeatCount → Nat
  | .two => 2
  | .four => 4

/-- The fields of `CFG` that may be chosen anew before each release of reset (rule R1;
`70_reset_and_hazards.md` rule R222). Durations are whole microseconds (rule R6). -/
structure Settings where
  /-- `KEY_MODE` -/
  keyMode : KeyMode
  /-- `SYMBOL`: the half-bit duration -/
  symbol : Nat
  /-- `T_WAKE_HI` -/
  tWakeHi : Nat
  /-- `T_WAKE_LO` -/
  tWakeLo : Nat
  /-- `T_HWSYNC_HI` -/
  tHwsyncHi : Nat
  /-- `T_HWSYNC_LO` -/
  tHwsyncLo : Nat
  /-- `T_SWSYNC_HI` -/
  tSwsyncHi : Nat
  /-- `T_IFS` -/
  tIfs : Nat
  /-- `K_REPEAT` -/
  repeats : RepeatCount
  /-- `ADDR_CFG` -/
  addrCfg : BitVec 24
  deriving DecidableEq, Repr

/-- `K_REPEAT` as a number. -/
def Settings.kRepeat (c : Settings) : Nat := c.repeats.count

/-- The "constraint a model may assume" column of rule R1 for the durations, and nothing more (rule R4). The
other fields meet theirs by their types. -/
abbrev Settings.Ok (c : Settings) : Prop :=
  (600 ≤ c.symbol ∧ c.symbol ≤ 650) ∧
  (9400 ≤ c.tWakeHi ∧ c.tWakeHi ≤ 10000) ∧
  (89500 ≤ c.tWakeLo ∧ c.tWakeLo ≤ 97000) ∧
  c.tHwsyncHi < 2 ^ 17 ∧ c.tHwsyncLo < 2 ^ 17 ∧
  (4550 ≤ c.tSwsyncHi ∧ c.tSwsyncHi ≤ 4800) ∧
  (30000 ≤ c.tIfs ∧ c.tIfs ≤ 32300)

/-- The configuration record `CFG` of rule R1, with the open parameter `NV_ENDIAN` of rule R48. What stands
beside the settings says where the storage keeps the instance's slot and in which order its bytes: the slot
is "uniquely assigned to one RemoteIdentity at construction time" (`20_memory.md` rule R41), the order is the
storage's own (rule R48), and "Changing `CFG` between resets does not change `RC` or the slot" (rule R222), so
nothing ever changes these three (log entry 12). -/
structure Cfg extends Settings where
  /-- `NV_BASE` -/
  nvBase : Nat
  /-- `SLOT_IDX` -/
  slotIdx : Nat
  /-- `NV_ENDIAN` -/
  nvEndian : Endian
  deriving DecidableEq, Repr

/-- FREE VALUE (log entry 4): the byte order of the storage behind the reference configuration, which rule R1
gives none. Rule R48: a model "takes the order as the OPEN parameter `NV_ENDIAN` and may prove nothing that
depends on its value". -/
opaque Config.nvEndian : Endian

/-- The reference configuration `REF` of rule R1, used for test vectors and for `State.reset`. -/
def Cfg.ref : Cfg where
  keyMode := .fixed
  symbol := 640
  tWakeHi := 9415
  tWakeLo := 89565
  tHwsyncHi := 2560
  tHwsyncLo := 2560
  tSwsyncHi := 4550
  tIfs := 30415
  repeats := .two
  nvBase := 0
  slotIdx := 0
  addrCfg := 0x123456
  nvEndian := Config.nvEndian

/-- `KEY_FIXED` of rule R2. -/
def Config.keyFixed : Byte := 0xA7
/-- `KEY_DYN_BASE` of rule R2. -/
def Config.keyDynBase : Byte := 0xA0
/-- `KEY_DYN_OFFSET` of rule R2. -/
def Config.keyDynOffset : Word := 8
/-- `N_SYNC_FIRST` of rule R2. -/
def Config.nSyncFirst : Nibble := 2
/-- `N_SYNC_REPEAT` of rule R2. -/
def Config.nSyncRepeat : Nibble := 7
/-- `RC_INIT` of rule R2. -/
def Config.rcInit : Word := 1
/-- `FRAME_BITS` of rule R2. -/
def Config.frameBits : Nat := 56

/-- FREE VALUE (log entry 2): what the frame registers hold after a reset, before any BUILD.
Rule R14: "A model must not give the unwritten frame registers a value (not zero, not any fixed
value)". Applied to the draw counter of the state. -/
opaque Config.unwrittenFrame : Nat → Frame

/-- FREE VALUE (log entry 3): whether a read of a written slot fails, when the state's script of
draws does not say (`20_memory.md` rule R43: "a model treats it as a free input (a draw) on every
read"). Applied to the draw counter of the state. -/
opaque Config.freeReadFails : Nat → Bool

end Sys2Proof
end

