-- ==== Sys2Proof/Syntax.lean ====
section
/-! DEFINITION. The operations of the block as one inductive: one constructor for each of the fifteen
rows of `opcode_table.json` (`30_encoding.md` rules R63, R64, R67). -/

namespace Sys2Proof

/-- The four command codes (rule R61). -/
inductive CommandCode where
  | my
  | up
  | down
  | program
  deriving DecidableEq, Repr

/-- One operation or, for the last two rows of format SYM, one symbol of the data phase. -/
inductive Instr where
  /-- MOVE.MY, `OPW` 0x11 (rule R161) -/
  | moveMy
  /-- MOVE.UP, `OPW` 0x12 (rule R162) -/
  | moveUp
  /-- MOVE.DOWN, `OPW` 0x14 (rule R163) -/
  | moveDown
  /-- MOVE.PROGRAM, `OPW` 0x18 (rule R164) -/
  | moveProgram
  /-- BUILD.MY, `OPW` 0x21 (rule R112) -/
  | buildMy
  /-- BUILD.UP, `OPW` 0x22 (rule R113) -/
  | buildUp
  /-- BUILD.DOWN, `OPW` 0x24 (rule R114) -/
  | buildDown
  /-- BUILD.PROGRAM, `OPW` 0x28 (rule R115) -/
  | buildProgram
  /-- TX.FIRST, `OPW` 0x32 (rule R138) -/
  | txFirst
  /-- TX.REPEAT, `OPW` 0x37 (rule R139) -/
  | txRepeat
  /-- TX.INVALID, `OPW` 0x30 to 0x3F but 0x32 and 0x37, with its sync count (rule R140) -/
  | txInvalid (n : Nibble)
  /-- LOAD, `OPW` 0x40 (rule R90) -/
  | load
  /-- SAVE, `OPW` 0x50 (rule R91) -/
  | save
  /-- MAN.0, the symbol of a data bit 0 (rule R122) -/
  | man0
  /-- MAN.1, the symbol of a data bit 1 (rule R121) -/
  | man1
  deriving DecidableEq, Repr

end Sys2Proof
end

