-- ==== Sys2Proof/WellFormed.lean ====
section
/-! DEFINITION. Which terms of `Instr` are operations of the block. The one operand that can be wrong is
the sync count of TX.INVALID: 2 and 7 are TX.FIRST and TX.REPEAT (`30_encoding.md` rules R64, R68, R72). -/

namespace Sys2Proof

/-- Well-formedness: TX.INVALID carries "any other 4-bit value" than 2 and 7 (rule R68); the other
fourteen constructors have no operand. -/
def Instr.wellFormed : Instr → Bool
  | .txInvalid n => n != Config.nSyncFirst && n != Config.nSyncRepeat
  | .moveMy | .moveUp | .moveDown | .moveProgram => true
  | .buildMy | .buildUp | .buildDown | .buildProgram => true
  | .txFirst | .txRepeat | .load | .save | .man0 | .man1 => true

end Sys2Proof
end

