-- ==== Sys2Proof/Decode.lean ====
section
/-! DEFINITION. The decoder of operation words and data bits, the encoder, and the assembler forms
(`30_encoding.md` rules R60 to R78). -/

namespace Sys2Proof

/-- The 4-bit code of a command (format CMD4, rule R61). -/
def CommandCode.code : CommandCode → Nibble
  | .my => 0x1
  | .up => 0x2
  | .down => 0x4
  | .program => 0x8

/-- Why a word is refused (rules R70, R71). -/
inductive Reject where
  /-- a MOVE or BUILD word whose `arg` is no command code (rule R70) -/
  | badCommand
  /-- a reserved selector, or a LOAD or SAVE word with a non-zero `arg` (rule R71) -/
  | reservedWord
  deriving DecidableEq, Repr

/-- `sel`, bits 7:4 of the operation word (rule R62). -/
def opwSel (w : Byte) : Nibble := w.extractLsb' 4 4

/-- `arg`, bits 3:0 of the operation word (rule R62), "used as it stands" (rule R64). -/
def opwArg (w : Byte) : Nibble := w.extractLsb' 0 4

/-- The decoder of operation words (rule R78): the exact words first, then any word with `sel` = 3 is
TX.INVALID, and everything else is refused by name. -/
def decode (w : Byte) : Except Reject Instr :=
  if w = 0x11 then .ok .moveMy
  else if w = 0x12 then .ok .moveUp
  else if w = 0x14 then .ok .moveDown
  else if w = 0x18 then .ok .moveProgram
  else if w = 0x21 then .ok .buildMy
  else if w = 0x22 then .ok .buildUp
  else if w = 0x24 then .ok .buildDown
  else if w = 0x28 then .ok .buildProgram
  else if w = 0x32 then .ok .txFirst
  else if w = 0x37 then .ok .txRepeat
  else if w = 0x40 then .ok .load
  else if w = 0x50 then .ok .save
  else if opwSel w = 0x3 then .ok (.txInvalid (opwArg w))
  else if opwSel w = 0x1 ∨ opwSel w = 0x2 then .error .badCommand
  else .error .reservedWord

/-- The decoder of a data bit (format SYM, rule R67): a 1 is MAN.1, a 0 is MAN.0. -/
def decodeSym (b : Bool) : Instr := if b then .man1 else .man0

/-- The words of the two formats an instruction is encoded in: an 8-bit operation word (rule R62) or
one data bit (rule R67). -/
inductive Code where
  | opw (w : Byte)
  | sym (b : Bool)
  deriving DecidableEq, Repr

/-- The decoder of both formats. -/
def decodeCode : Code → Except Reject Instr
  | .opw w => decode w
  | .sym b => .ok (decodeSym b)

/-- The operation word with selector `sel` and argument `arg` (rule R62). -/
def mkOpw (sel arg : Nibble) : Byte := sel ++ arg

/-- The encoder, written from the selector and argument tables of rules R63, R64 and from rule R67. -/
def encode : Instr → Code
  | .moveMy => .opw (mkOpw 0x1 CommandCode.my.code)
  | .moveUp => .opw (mkOpw 0x1 CommandCode.up.code)
  | .moveDown => .opw (mkOpw 0x1 CommandCode.down.code)
  | .moveProgram => .opw (mkOpw 0x1 CommandCode.program.code)
  | .buildMy => .opw (mkOpw 0x2 CommandCode.my.code)
  | .buildUp => .opw (mkOpw 0x2 CommandCode.up.code)
  | .buildDown => .opw (mkOpw 0x2 CommandCode.down.code)
  | .buildProgram => .opw (mkOpw 0x2 CommandCode.program.code)
  | .txFirst => .opw (mkOpw 0x3 Config.nSyncFirst)
  | .txRepeat => .opw (mkOpw 0x3 Config.nSyncRepeat)
  | .txInvalid n => .opw (mkOpw 0x3 n)
  | .load => .opw (mkOpw 0x4 0)
  | .save => .opw (mkOpw 0x5 0)
  | .man0 => .sym false
  | .man1 => .sym true

/-- The decoder on a row of the opcode table: `nbits` bits with the value `w`. The SYM rows have one
bit (rule R67); every other row is an 8-bit operation word, and no longer word exists (rule R74). -/
def decodeTableWord (nbits w : Nat) : Option Instr :=
  if nbits = 1 then (if w < 2 then some (decodeSym (w == 1)) else none)
  else if 256 ≤ w then none
  else (decode (BitVec.ofNat 8 w)).toOption

/-- The ASCII letters of name resolution, as bytes (rule R76, `92_eei_decisions.md` D23). -/
def asciiUpperU : Byte := 0x55
/-- `u` -/
def asciiLowerU : Byte := 0x75
/-- `D` -/
def asciiUpperD : Byte := 0x44
/-- `d` -/
def asciiLowerD : Byte := 0x64
/-- `P` -/
def asciiUpperP : Byte := 0x50
/-- `p` -/
def asciiLowerP : Byte := 0x70

/-- Command-name resolution (rule R76): only the first byte of the text counts, and anything that is
not one of the six letters, the empty text included, is MY. -/
def resolve : List Byte → CommandCode
  | [] => .my
  | c :: _ =>
    if c = asciiUpperU ∨ c = asciiLowerU then .up
    else if c = asciiUpperD ∨ c = asciiLowerD then .down
    else if c = asciiUpperP ∨ c = asciiLowerP then .program
    else .my

/-- The operation word of the pseudo-operation `move "<text>"` (rule R77). -/
def moveWord (text : List Byte) : Byte := mkOpw 0x1 (resolve text).code

/-- One line of the operation syntax (rule R75), and the pseudo-operation of rule R77. -/
inductive AsmLine where
  /-- `MOVE <cmd>` -/
  | move (c : CommandCode)
  /-- `BUILD <cmd>` -/
  | build (c : CommandCode)
  /-- `TX <n>`, n a decimal number 0 to 15 -/
  | tx (n : Fin 16)
  /-- `LOAD` -/
  | load
  /-- `SAVE` -/
  | save
  /-- `move "<text>"` -/
  | moveText (text : List Byte)
  deriving DecidableEq, Repr

/-- The operation word a line stands for (rules R75, R77). -/
def AsmLine.word : AsmLine → Byte
  | .move c => mkOpw 0x1 c.code
  | .build c => mkOpw 0x2 c.code
  | .tx n => mkOpw 0x3 (BitVec.ofFin n)
  | .load => mkOpw 0x4 0
  | .save => mkOpw 0x5 0
  | .moveText text => moveWord text

end Sys2Proof
end

