-- ==== Sys2Proof/Machine/State.lean ====
section
/-! DEFINITION. The state of one instance of the block, as plain data: every register of `10_state.md`
rule R10, the non-volatile store (rule R40), the configuration record `CFG` (rule R1, a parameter that
no operation writes), the event trace `TR` (rule R5), and the inputs of the environment. -/

namespace Sys2Proof.Machine

/-- `PH`, the phase of the frame in progress (rule R15). -/
inductive Phase where
  | idle
  | wake
  | hwsync
  | swsync
  | data
  | silence
  | halt
  deriving DecidableEq, Repr

/-- The sequencer position `SEQ` (rule R15), with the widths given there. -/
structure Seq where
  /-- `PH` -/
  ph : Phase
  /-- `HALF`: false, the first segment of a pair is next; true, the second -/
  half : Bool
  /-- `CNT`: hardware-sync pulse pairs already completed in this frame -/
  cnt : BitVec 3
  /-- `BIT`: index of the data bit being sent -/
  bit : BitVec 6
  /-- `FRM`: index of the frame within the burst -/
  frm : BitVec 3
  deriving DecidableEq, Repr

/-- One event of the trace `TR` (rule R5). -/
inductive Event where
  /-- the output line is driven low (false) or high (true) -/
  | line (v : Bool)
  /-- the block does nothing for `n` microseconds -/
  | wait (n : Nat)
  /-- the slot at byte offset `a` was read; `r` is the value, or none -/
  | nvRead (a : Nat) (r : Option Word)
  /-- the value `v` was durably written to the slot at byte offset `a` -/
  | nvWrite (a : Nat) (v : Word)
  deriving DecidableEq, Repr

/-- What happened to the block's slot by the time of a reset (`20_memory.md` rule R53): nothing, or the
persisted storage was lost. -/
inductive StoreFate where
  | kept
  | lost
  deriving DecidableEq, Repr

/-- One input of the outside world, in the order the platform and the host give them (log entry 6).
A step takes at most one. -/
inductive Input where
  /-- the host presents an operation word as soon as `BUSY` is 0 (`70_reset_and_hazards.md` rule R215) -/
  | opw (w : Byte)
  /-- the host calls `move(commandName)` (`44_remote_controller.md` rule R172): it resolves the text and
  presents the MOVE word as soon as `BUSY` is 0 -/
  | moveName (text : List Byte)
  /-- the host presents an operation word at this moment, whatever `BUSY` is (`60_exceptions.md` rule R189) -/
  | opwNow (w : Byte)
  /-- the block goes on by its least step: one microsecond of the current wait, or else the event due -/
  | tick
  /-- the platform resets the block, or power was lost and has returned (rules R210, R197), with the
  settings fixed before this release of reset (rules R1, R222) -/
  | reset (fate : StoreFate) (set : Settings)
  deriving DecidableEq, Repr

/-- The non-volatile store `NV` (rule R40): byte offsets with their bytes, offsets strictly rising.
An offset that is not listed holds no byte: it was never written, or it was lost (rule R42). -/
abbrev Memory := List Host.Cell

/-- Why the machine stops with a fault. -/
inductive Fault where
  /-- Raised by the sequencer in the `DATA` phase when `BIT` names no bit of the frame registers (56 to
  63): rule R16 says that `SEQ` never holds such a value, and there is no register `F[7]` (rule R11).
  Safe: the machine stops in states that no run reaches. -/
  | seqOutOfRange
  deriving DecidableEq, Repr

/-- Why a request has no meaning (`60_exceptions.md` rules R190, R191: "a model has no step for a refused
request"). Each is safe: the machine stops where the specification gives no behaviour. -/
inductive Refusal where
  /-- raised by `exec` alone, for an instruction that has no meaning yet; safe -/
  | notModelled (mnemonic : String)
  /-- rule R191 item a, raised for any operation while `FAULT` = 1; safe -/
  | faulted
  /-- rule R191 item b, raised for any operation while `BUSY` = 1 (rule R189); safe -/
  | busy
  /-- rule R191 item c, raised for a MOVE or BUILD word whose `arg` is no command code; safe -/
  | badCommand
  /-- rule R191 item d, raised for a reserved word; safe -/
  | reservedWord
  /-- rule R191 item e, raised by TX.FIRST and TX.REPEAT while `FV` = 0 (rule R145); safe -/
  | noFrame
  deriving DecidableEq, Repr

/-- The state of one instance of the block (rule R10), its configuration, its trace and its inputs. -/
structure State where
  /-- `CFG` (rule R1): a parameter, fixed before reset is released -/
  cfg : Cfg
  /-- `F[0]` to `F[6]`, the frame registers (rule R11) -/
  f : Frame
  /-- `FV`, frame valid (rule R14) -/
  fv : Bool
  /-- `SEQ`, the sequencer position (rule R15) -/
  seq : Seq
  /-- `LINE`, the level of the output line, true = high (rule R17) -/
  line : Bool
  /-- `BUSY` (rule R18) -/
  busy : Bool
  /-- `FAULT`, sticky (rule R19) -/
  fault : Bool
  /-- `FCAUSE` (rule R26) -/
  fcause : BitVec 4
  /-- `FINFO` (rule R26) -/
  finfo : BitVec 4
  /-- `ADDR` (rule R21) -/
  addr : BitVec 24
  /-- `RC`, the rolling code of the next frame (rule R22) -/
  rc : Word
  /-- `CMD` (rule R23) -/
  cmd : BitVec 4
  /-- `NSYNC` (rule R24) -/
  nsync : BitVec 4
  /-- `BURST` (rule R25) -/
  burst : Bool
  /-- `TIMER`, microseconds left of the current wait (rule R27) -/
  timer : BitVec 17
  /-- `NV`, the non-volatile store (rules R29, R40) -/
  nv : Memory
  /-- `TR`, the events since the last reset, oldest first (rule R5) -/
  tr : List Event
  /-- MODEL'S OWN: the inputs still to come, the next first (log entry 6) -/
  inputs : List Input
  /-- MODEL'S OWN: the environment's draws for the next reads of a written slot, true = the read fails
  (rule R43, log entry 3) -/
  readDraws : List Bool
  /-- MODEL'S OWN: how many free values have been drawn (log entries 2 and 3) -/
  drawCount : Nat
  deriving DecidableEq, Repr

/-- The machine right after the first reset (`70_reset_and_hazards.md` rules R210, R211): configuration
`REF`, a store in which nothing was ever written, so the load gave none and `RC` is 1 (rule R212), and
no input. The frame registers hold a free value (rule R14, log entry 2). -/
def State.reset : State where
  cfg := Cfg.ref
  f := Config.unwrittenFrame 0
  fv := false
  seq := { ph := .idle, half := false, cnt := 0, bit := 0, frm := 0 }
  line := false
  busy := false
  fault := false
  fcause := 0
  finfo := 0
  addr := Cfg.ref.addrCfg
  rc := Config.rcInit
  cmd := 0
  nsync := 0
  burst := false
  timer := 0
  nv := []
  tr := [.nvRead (Cfg.ref.nvBase + 4 * Cfg.ref.slotIdx) none]
  inputs := []
  readDraws := []
  drawCount := 2

end Sys2Proof.Machine
end

