-- ==== Sys2Proof/Machine/Memory.lean ====
section
/-! DEFINITION. The non-volatile store: reading and writing one byte, and the 4-byte slot as one cell that
holds none or a 32-bit value (`20_memory.md` rules R40 to R52). -/

namespace Sys2Proof.Machine

/-- The canonical form: byte offsets strictly rising. An unlisted offset reads as none and a listed one
never does, so no entry repeats what an unlisted offset reads as. -/
abbrev Memory.wf (m : Memory) : Prop := m.Pairwise (fun x y => x.1 < y.1)

/-- One byte of the store; none if nothing is written there. -/
def Memory.read : Memory → Nat → Option Byte
  | [], _ => none
  | (k, b) :: m, a => if k = a then some b else Memory.read m a

/-- Writes one byte, in order of offsets. -/
def Memory.write : Memory → Nat → Byte → Memory
  | [], a, v => [(a, v)]
  | (k, b) :: m, a, v =>
    if a < k then (a, v) :: (k, b) :: m
    else if a = k then (a, v) :: m
    else (k, b) :: Memory.write m a v

/-- Takes one byte out of the store: the offset holds nothing any more. -/
def Memory.erase (m : Memory) (a : Nat) : Memory := m.filter (fun c => c.1 != a)

/-- The four bytes of a slot as one value, the first byte at the lowest offset (rules R48, R69). -/
def joinBytes (e : Endian) (b0 b1 b2 b3 : Byte) : Word :=
  match e with
  | .big => b0 ++ b1 ++ b2 ++ b3
  | .little => b3 ++ b2 ++ b1 ++ b0

/-- Byte `i` (0 to 3, by offset within the slot) of a value (rules R48, R69). -/
def byteOf (e : Endian) (v : Word) (i : Nat) : Byte :=
  match e with
  | .big => v.extractLsb' (8 * (3 - i)) 8
  | .little => v.extractLsb' (8 * i) 8

/-- The cell `NV[a]` of rule R42: the 32-bit value when all four bytes were written, none otherwise. -/
def slotRead (e : Endian) (m : Memory) (a : Nat) : Option Word :=
  match m.read a, m.read (a + 1), m.read (a + 2), m.read (a + 3) with
  | some b0, some b1, some b2, some b3 => some (joinBytes e b0 b1 b2 b3)
  | _, _, _, _ => none

/-- `NV[a] <- v`, all 32 bits at once (rules R44, R52). -/
def slotWrite (e : Endian) (m : Memory) (a : Nat) (v : Word) : Memory :=
  (((m.write a (byteOf e v 0)).write (a + 1) (byteOf e v 1)).write (a + 2) (byteOf e v 2)).write (a + 3)
    (byteOf e v 3)

/-- The loss of a slot's content, `NV[a] <- none` (rule R53). -/
def slotErase (m : Memory) (a : Nat) : Memory :=
  (((m.erase a).erase (a + 1)).erase (a + 2)).erase (a + 3)

end Sys2Proof.Machine
end

