-- ==== Sys2Proof/Machine/Ops.lean ====
section
/-! DEFINITION. The named operations over the state: the primitives of `00_scope.md` rule R9 (`MemRead`,
`MemWrite`, `Line`, `Wait`, `SEG`), taking the one exception (`60_exceptions.md` rule R185) and the reset,
its only way out (rules R186, R210). -/

namespace Sys2Proof.Machine

/-- The byte offset of the slot of a configuration, `a = NV_BASE + 4 * SLOT_IDX` (rule R41). -/
def slotAddr (c : Cfg) : Nat := c.nvBase + 4 * c.slotIdx

/-- The instance's own slot as the cell `NV[a]` (rules R42, R92). -/
def slotOf (s : State) : Option Word := slotRead s.cfg.nvEndian s.nv (slotAddr s.cfg)

/-- The environment's draw for a read of a written slot, true = the read fails (rule R43): the script of
the state if it has one, else a free value. -/
def readFails (s : State) : Bool :=
  match s.readDraws with
  | d :: _ => d
  | [] => Config.freeReadFails s.drawCount

/-- The result of `MemRead(a, 4)` (rule R43): none if the slot was never written or the read fails,
otherwise the value last written. -/
def memReadValue (s : State) : Option Word :=
  match slotOf s with
  | none => none
  | some v => if readFails s then none else some v

/-- `MemRead(a, 4)` (rule R43): the result is appended to the trace and `NV` is unchanged. One draw of
the environment is used up. -/
def memRead (s : State) : State :=
  { s with
    tr := s.tr ++ [.nvRead (slotAddr s.cfg) (memReadValue s)]
    readDraws := s.readDraws.tail
    drawCount := s.drawCount + 1 }

/-- `MemWrite(a, 4, v)` (rule R44): durable when the event is in the trace, and it cannot fail. -/
def memWrite (v : Word) (s : State) : State :=
  { s with
    nv := slotWrite s.cfg.nvEndian s.nv (slotAddr s.cfg) v
    tr := s.tr ++ [.nvWrite (slotAddr s.cfg) v] }

/-- `Line(v)`: the line is driven and the event recorded (rules R5, R17). -/
def lineEvent (v : Bool) (s : State) : State := { s with line := v, tr := s.tr ++ [.line v] }

/-- `Wait(n)`: `TIMER <- n`, and the event is recorded (rules R5, R27). -/
def waitEvent (n : Nat) (s : State) : State :=
  { s with timer := BitVec.ofNat 17 n, tr := s.tr ++ [.wait n] }

/-- A level and a duration in microseconds: the data of a segment (rule R5). -/
abbrev Segment := Bool × Nat

/-- `SEG(v, n)`, that is `Line(v); Wait(n)` (rule R5). -/
def emit (g : Segment) (s : State) : State := waitEvent g.2 (lineEvent g.1 s)

/-- The cause code of InvalidSyncCount (rules R26, R181). -/
def causeInvalidSyncCount : BitVec 4 := 1

/-- TAKING THE EXCEPTION `raise InvalidSyncCount(n)`, atomically (rule R185). There is no handler, no
saved position and no event, and nothing else changes. There is no return from it (rule R186). -/
def raiseInvalidSyncCount (n : Nibble) (s : State) : State :=
  { s with
    fault := true
    fcause := causeInvalidSyncCount
    finfo := n
    seq := { s.seq with ph := .halt }
    busy := false }

/-- The registers as the first lines of the reset sequence leave them (rule R210), before the load of
the rolling code. The store, the inputs and the draws still to come are the environment's; the frame
registers are unwritten, a free value (rule R14). The place of the slot and its byte order stay (rule R222). -/
def resetRegisters (set : Settings) (s : State) : State :=
  { State.reset with
    cfg := { s.cfg with toSettings := set }
    f := Config.unwrittenFrame s.drawCount
    addr := set.addrCfg
    busy := true
    nv := s.nv
    tr := []
    inputs := s.inputs
    readDraws := s.readDraws
    drawCount := s.drawCount + 1 }

/-- `RC <- (r if r is not none, else 1)` with `r = MemRead(a, 4)`: what LOAD and reset share (rules R90,
R93, R212). -/
def loadRollingCode (s : State) : State :=
  { memRead s with rc := (memReadValue s).getD Config.rcInit }

/-- The store at a reset: as it was, or with the block's slot lost (rule R53). -/
def storeAfter (fate : StoreFate) (cfg : Cfg) (m : Memory) : Memory :=
  match fate with
  | .kept => m
  | .lost => slotErase m (slotAddr cfg)

/-- RESET (rules R210 to R212), released with the settings `set`: the only way into the initial state
and the only way out of `HALT`. An operation in progress is abandoned. -/
def resetBlock (fate : StoreFate) (set : Settings) (s : State) : State :=
  { loadRollingCode (resetRegisters set { s with nv := storeAfter fate s.cfg s.nv }) with busy := false }

end Sys2Proof.Machine
end

