-- ==== Sys2Proof/Machine/Operands.lean ====
section
/-! DEFINITION. The operands the block reads: the sync count of TX, the bits of the frame registers, and
the numeric codes of the phases. Command codes and name resolution stand in `Decode.lean`. -/

namespace Sys2Proof.Machine

/-- Is this sync count 2 or 7, "exactly the first-frame or repeat-frame value" (rules R68, R131)? -/
def validSyncCount (n : Nibble) : Bool := n == Config.nSyncFirst || n == Config.nSyncRepeat

/-- The frame registers in order, `F[0]` first (rule R11). -/
def frameBytes (f : Frame) : List Byte := [f.f0, f.f1, f.f2, f.f3, f.f4, f.f5, f.f6]

/-- The bits of a byte, bit 7 first (rule R47). -/
def byteBits (b : Byte) : List Bool :=
  [b.getLsbD 7, b.getLsbD 6, b.getLsbD 5, b.getLsbD 4, b.getLsbD 3, b.getLsbD 2, b.getLsbD 1, b.getLsbD 0]

/-- The 56 data bits in the order they are sent (rules R47, R124). -/
def dataBits (f : Frame) : List Bool := (frameBytes f).flatMap byteBits

/-- Bit fetch (rule R123): `b(i) = F[i div 8][7 - (i mod 8)]`, none where there is no such register. -/
def dataBit (f : Frame) (i : Nat) : Option Bool :=
  ((frameBytes f)[i / 8]?).map (fun b => b.getLsbD (7 - i % 8))

/-- The 3-bit code of a phase (rule R15); 7 is no phase's. -/
def phaseCode : Phase → BitVec 3
  | .idle => 0
  | .wake => 1
  | .hwsync => 2
  | .swsync => 3
  | .data => 4
  | .silence => 5
  | .halt => 6

end Sys2Proof.Machine
end

