-- ==== Sys2Proof/Machine/Flags.lean ====
section
/-! DEFINITION. The flags `FV`, `LINE`, `BUSY`, `FAULT` (`10_state.md` rules R14, R17 to R20) as the
operations test them, and the four-field status the host sees (rule R28). There are no arithmetic flags. -/

namespace Sys2Proof.Machine

/-- The first two tests of an operation word (`60_exceptions.md` rule R187 items 1 and 2): `FAULT` first,
then `BUSY`. Otherwise the operation `go` is performed. -/
def whenIdle (s : State) (go : Host.Outcome State Fault Refusal) : Host.Outcome State Fault Refusal :=
  if s.fault then .refused .faulted
  else if s.busy then .refused .busy
  else go

/-- What the host can read: `BUSY`, `FAULT`, `FCAUSE`, `FINFO` and nothing else (rule R28). -/
def hostStatus (s : State) : Bool × Bool × BitVec 4 × BitVec 4 := (s.busy, s.fault, s.fcause, s.finfo)

end Sys2Proof.Machine
end

