-- ==== Sys2Proof/Machine/FrameBuilder.lean ====
section
/-! DEFINITION. The frame builder: the pure functions `key`, `plain`, `checksum`, `obfuscate`,
`deobfuscate`, `frame_of`, and BUILD (`41_frame_builder.md` rules R100 to R119). -/

namespace Sys2Proof.Machine

/-- Step 1, the key byte (rules R101, R102); `rc` is the value before the increment. -/
def keyByte (mode : KeyMode) (rc : Word) : Byte :=
  match mode with
  | .fixed => Config.keyFixed
  | .dynamic => Config.keyDynBase ||| ((rc - Config.keyDynOffset) &&& 0xF).setWidth 8

/-- Step 2, byte 1 before the checksum: the command in the high nibble (rule R103). -/
def commandByte (c : CommandCode) : Byte := c.code.setWidth 8 <<< 4

/-- Steps 1 to 4: the plain frame with its checksum nibble still zero (rules R101 to R105, R46). -/
def rawFrame (mode : KeyMode) (addr : BitVec 24) (rc : Word) (c : CommandCode) : Frame where
  f0 := keyByte mode rc
  f1 := commandByte c
  f2 := rc.extractLsb' 8 8
  f3 := rc.extractLsb' 0 8
  f4 := addr.extractLsb' 16 8
  f5 := addr.extractLsb' 8 8
  f6 := addr.extractLsb' 0 8

/-- `P[i] ^ (P[i] >> 4)`, the term of the checksum (rule R106). -/
def nibbleTerm (b : Byte) : Byte := b ^^^ (b >>> 4)

/-- `( XOR_{i=0..6} ( P[i] ^ (P[i] >> 4) ) ) & 0xF` (rule R106). -/
def checksum (p : Frame) : Byte :=
  (nibbleTerm p.f0 ^^^ nibbleTerm p.f1 ^^^ nibbleTerm p.f2 ^^^ nibbleTerm p.f3 ^^^ nibbleTerm p.f4 ^^^
    nibbleTerm p.f5 ^^^ nibbleTerm p.f6) &&& 0xF

/-- Step 5: the checksum goes into the low nibble of byte 1 (rule R106). -/
def withChecksum (p : Frame) : Frame := { p with f1 := p.f1 ||| checksum p }

/-- `plain(ADDR, RC, c)`, the plain frame after steps 1 to 5 (rule R111). -/
def plainFrame (mode : KeyMode) (addr : BitVec 24) (rc : Word) (c : CommandCode) : Frame :=
  withChecksum (rawFrame mode addr rc c)

/-- Step 6, the cascading XOR in increasing index order, each byte with its already obfuscated
predecessor (rule R108). -/
def obfuscate (p : Frame) : Frame :=
  let f0 := p.f0
  let f1 := p.f1 ^^^ f0
  let f2 := p.f2 ^^^ f1
  let f3 := p.f3 ^^^ f2
  let f4 := p.f4 ^^^ f3
  let f5 := p.f5 ^^^ f4
  let f6 := p.f6 ^^^ f5
  { f0, f1, f2, f3, f4, f5, f6 }

/-- The inverse of step 6: each byte with its obfuscated predecessor (rule R109). No operation of the
block performs it. -/
def deobfuscate (f : Frame) : Frame where
  f0 := f.f0
  f1 := f.f1 ^^^ f.f0
  f2 := f.f2 ^^^ f.f1
  f3 := f.f3 ^^^ f.f2
  f4 := f.f4 ^^^ f.f3
  f5 := f.f5 ^^^ f.f4
  f6 := f.f6 ^^^ f.f5

/-- The XOR of the fourteen nibbles of a frame: what a receiver verifies to be 0 (rule R107). -/
def nibbleXor (p : Frame) : Nibble :=
  p.f0.extractLsb' 4 4 ^^^ p.f0.extractLsb' 0 4 ^^^ p.f1.extractLsb' 4 4 ^^^ p.f1.extractLsb' 0 4 ^^^
  p.f2.extractLsb' 4 4 ^^^ p.f2.extractLsb' 0 4 ^^^ p.f3.extractLsb' 4 4 ^^^ p.f3.extractLsb' 0 4 ^^^
  p.f4.extractLsb' 4 4 ^^^ p.f4.extractLsb' 0 4 ^^^ p.f5.extractLsb' 4 4 ^^^ p.f5.extractLsb' 0 4 ^^^
  p.f6.extractLsb' 4 4 ^^^ p.f6.extractLsb' 0 4

/-- `frame_of(ADDR, RC, c)`, the transmitted frame (rule R111). -/
def frameOf (mode : KeyMode) (addr : BitVec 24) (rc : Word) (c : CommandCode) : Frame :=
  obfuscate (plainFrame mode addr rc c)

/-- BUILD c on an idle, unfaulted block (rule R100, in the form of rule R111): the frame carries the old
rolling code, and the slot receives the new one (rule R110). MOVE begins with it (rule R160). -/
def buildFrame (c : CommandCode) (s : State) : State :=
  memWrite (s.rc + 1)
    { s with
      cmd := c.code
      f := frameOf s.cfg.keyMode s.addr s.rc c
      fv := true
      rc := s.rc + 1 }

/-- BUILD c as an operation: it cannot fault, and it drives no line event (rule R100). -/
def buildOp (c : CommandCode) (s : State) : Host.Outcome State Fault Refusal :=
  whenIdle s (.next (buildFrame c s))

/-- BUILD.MY (rule R112) -/
def execBuildMy (s : State) : Host.Outcome State Fault Refusal := buildOp .my s

/-- BUILD.UP (rule R113) -/
def execBuildUp (s : State) : Host.Outcome State Fault Refusal := buildOp .up s

/-- BUILD.DOWN (rule R114) -/
def execBuildDown (s : State) : Host.Outcome State Fault Refusal := buildOp .down s

/-- BUILD.PROGRAM (rule R115) -/
def execBuildProgram (s : State) : Host.Outcome State Fault Refusal := buildOp .program s

end Sys2Proof.Machine
end

