-- ==== Sys2Proof/Machine/Manchester.lean ====
section
/-! DEFINITION. The Manchester encoder: the symbols MAN.0 and MAN.1 (`42_manchester_encoder.md` rules R120
to R122). They are no operation words: the `DATA` phase of the sequencer sends the two half-symbols of
each data bit in two of its steps (`Transmitter.lean`, rule R141), with the segments defined here. -/

namespace Sys2Proof.Machine

/-- One half-symbol of data bit `b` (rules R67, R120): the complement of the bit first, then the bit. -/
def manHalf (c : Cfg) (b second : Bool) : Segment := (if second then b else !b, c.symbol)

/-- `man(b) = SEG(1 - b, SYMBOL) ; SEG(b, SYMBOL)` (rule R120). -/
def manSymbol (b : Bool) (s : State) : State := emit (manHalf s.cfg b true) (emit (manHalf s.cfg b false) s)

/-- MAN.0 (rule R122): `Line(1); Wait(SYMBOL); Line(0); Wait(SYMBOL)`. It writes the line, the trace and
the timer, and nothing else. -/
def execMan0 (s : State) : Host.Outcome State Fault Refusal := .next (manSymbol false s)

/-- MAN.1 (rule R121): `Line(0); Wait(SYMBOL); Line(1); Wait(SYMBOL)`. -/
def execMan1 (s : State) : Host.Outcome State Fault Refusal := .next (manSymbol true s)

end Sys2Proof.Machine
end

