-- ==== Sys2Proof/Machine/Transmitter.lean ====
section
/-! DEFINITION. The waveform transmitter: TX, and the sequencer that sends a frame one segment at a step
(`43_waveform_tx.md` rules R130 to R147). -/

namespace Sys2Proof.Machine

/-- TX n (rule R130), with the tests in the order of `60_exceptions.md` rule R187: the sync count first,
then `FV` (rules R131, R145). An accepted TX takes `BUSY`, latches the count and enters the sequencer
where rule R141 says; the sequencer then sends the frame, one segment at a step. -/
def txOp (n : Nibble) (s : State) : Host.Outcome State Fault Refusal :=
  whenIdle s <|
    if validSyncCount n = false then .next (raiseInvalidSyncCount n s)
    else if s.fv = false then .refused .noFrame
    else if n = Config.nSyncFirst then
      .next { s with
        nsync := n, burst := false, busy := true
        seq := { s.seq with ph := .wake, half := false, frm := 0 } }
    else
      .next { s with
        nsync := n, burst := false, busy := true
        seq := { s.seq with ph := .hwsync, half := false, cnt := 0, frm := 0 } }

/-- TX.FIRST (rule R138) -/
def execTxFirst (s : State) : Host.Outcome State Fault Refusal := txOp Config.nSyncFirst s

/-- TX.REPEAT (rule R139) -/
def execTxRepeat (s : State) : Host.Outcome State Fault Refusal := txOp Config.nSyncRepeat s

/-- TX.INVALID (rule R140): raises InvalidSyncCount(n), whether or not `FV` is set. -/
def execTxInvalid (n : Nibble) (s : State) : Host.Outcome State Fault Refusal := txOp n s

/-- The segment the sequencer emits next: the third column of the table of rule R141. -/
def dueSegment (s : State) : Option Segment :=
  match s.seq.ph with
  | .idle => none
  | .wake => some (if s.seq.half then (false, s.cfg.tWakeLo) else (true, s.cfg.tWakeHi))
  | .hwsync => some (if s.seq.half then (false, s.cfg.tHwsyncLo) else (true, s.cfg.tHwsyncHi))
  | .swsync => some (if s.seq.half then (false, s.cfg.symbol) else (true, s.cfg.tSwsyncHi))
  | .data => (dataBit s.f s.seq.bit.toNat).map (fun b => manHalf s.cfg b s.seq.half)
  | .silence => some (false, s.cfg.tIfs)
  | .halt => none

/-- How `SEQ` moves after a segment: the last column of the table of rule R141. After the last silence
the position is `IDLE`, and `BUSY` falls when its wait has elapsed (rule R136). -/
def moveOn (s : State) : State :=
  match s.seq.ph with
  | .idle => s
  | .wake =>
    if s.seq.half then { s with seq := { s.seq with ph := .hwsync, half := false, cnt := 0 } }
    else { s with seq := { s.seq with half := true } }
  | .hwsync =>
    if s.seq.half then
      if s.seq.cnt.toNat + 1 < s.nsync.toNat then
        { s with seq := { s.seq with half := false, cnt := s.seq.cnt + 1 } }
      else { s with seq := { s.seq with ph := .swsync, half := false } }
    else { s with seq := { s.seq with half := true } }
  | .swsync =>
    if s.seq.half then { s with seq := { s.seq with ph := .data, half := false, bit := 0 } }
    else { s with seq := { s.seq with half := true } }
  | .data =>
    if s.seq.half then
      if s.seq.bit.toNat < 55 then { s with seq := { s.seq with half := false, bit := s.seq.bit + 1 } }
      else { s with seq := { s.seq with ph := .silence, half := false } }
    else { s with seq := { s.seq with half := true } }
  | .silence =>
    if s.burst ∧ s.seq.frm.toNat < s.cfg.kRepeat then
      { s with
        nsync := Config.nSyncRepeat
        seq := { s.seq with ph := .hwsync, half := false, cnt := 0, frm := s.seq.frm + 1 } }
    else { s with seq := { s.seq with ph := .idle } }
  | .halt => s

/-- One step of the transmitter while the block is busy (rule R141): what is left of the current wait
elapses, and the next segment is emitted; after the last one the wait's end completes the operation
(rules R18, R136). In `HALT` it stays. -/
def advance (s : State) : Host.Outcome State Fault Refusal :=
  match s.seq.ph with
  | .idle => .next { s with timer := 0, busy := false }
  | .halt => .next s
  | .wake | .hwsync | .swsync | .data | .silence =>
    match dueSegment s with
    | some g => .next (moveOn (emit g s))
    | none => .fault .seqOutOfRange

/-- One microsecond of the current wait (rules R27, R193), or the next step of the transmitter if none is
left. -/
def tickOnce (s : State) : Host.Outcome State Fault Refusal :=
  if s.timer = 0 then advance s else .next { s with timer := s.timer - 1 }

/-- The block with no new request: it goes on with the operation in progress, and stays as it is when
idle or halted (rule R141, rows `IDLE` and `HALT`). -/
def proceed (s : State) : Host.Outcome State Fault Refusal :=
  if s.busy then advance s else .next s

end Sys2Proof.Machine
end

