-- ==== Sys2Proof/Machine/Controller.lean ====
section
/-! DEFINITION. The burst controller: MOVE (`44_remote_controller.md` rules R160 to R172). -/

namespace Sys2Proof.Machine

/-- The start of MOVE c on an idle, unfaulted block (rule R160): BUILD c, then `BURST <- 1`, `FRM <- 0`
and the first frame's position and sync count (rules R24, R141). The sequencer sends the burst. -/
def startBurst (c : CommandCode) (s : State) : State :=
  let b := buildFrame c s
  { b with
    burst := true
    busy := true
    nsync := Config.nSyncFirst
    seq := { b.seq with ph := .wake, half := false, frm := 0 } }

/-- MOVE c as an operation: it can never raise InvalidSyncCount and needs no frame to be there before
(rule R160). -/
def moveOp (c : CommandCode) (s : State) : Host.Outcome State Fault Refusal :=
  whenIdle s (.next (startBurst c s))

/-- MOVE.MY (rule R161) -/
def execMoveMy (s : State) : Host.Outcome State Fault Refusal := moveOp .my s

/-- MOVE.UP (rule R162) -/
def execMoveUp (s : State) : Host.Outcome State Fault Refusal := moveOp .up s

/-- MOVE.DOWN (rule R163) -/
def execMoveDown (s : State) : Host.Outcome State Fault Refusal := moveOp .down s

/-- MOVE.PROGRAM (rule R164) -/
def execMoveProgram (s : State) : Host.Outcome State Fault Refusal := moveOp .program s

end Sys2Proof.Machine
end

