-- ==== Sys2Proof/Machine/Store.lean ====
section
/-! DEFINITION. LOAD and SAVE (`40_rolling_code_store.md` rules R90 to R96). `BUSY` is 1 for their duration,
which is no modelled time (rule R225), and 0 again in the next state. -/

namespace Sys2Proof.Machine

/-- LOAD (rule R90): `RC` is the slot's value, or 1 if the read gave none (rule R93). -/
def execLoad (s : State) : Host.Outcome State Fault Refusal :=
  whenIdle s (.next (loadRollingCode s))

/-- SAVE (rule R91): `RC` is written to the slot. -/
def execSave (s : State) : Host.Outcome State Fault Refusal :=
  whenIdle s (.next (memWrite s.rc s))

end Sys2Proof.Machine
end

