-- ==== Sys2Proof/Machine/Dispatch.lean ====
section
/-! DEFINITION. The dispatch: one arm per constructor of `Instr`, each a direct call of its meaning. -/

namespace Sys2Proof.Machine

def exec (i : Instr) (s : State) : Host.Outcome State Fault Refusal :=
  match i with
  | .moveMy => Sys2Proof.Machine.execMoveMy s
  | .moveUp => Sys2Proof.Machine.execMoveUp s
  | .moveDown => Sys2Proof.Machine.execMoveDown s
  | .moveProgram => Sys2Proof.Machine.execMoveProgram s
  | .buildMy => Sys2Proof.Machine.execBuildMy s
  | .buildUp => Sys2Proof.Machine.execBuildUp s
  | .buildDown => Sys2Proof.Machine.execBuildDown s
  | .buildProgram => Sys2Proof.Machine.execBuildProgram s
  | .txFirst => Sys2Proof.Machine.execTxFirst s
  | .txRepeat => Sys2Proof.Machine.execTxRepeat s
  | .txInvalid n => Sys2Proof.Machine.execTxInvalid n s
  | .load => Sys2Proof.Machine.execLoad s
  | .save => Sys2Proof.Machine.execSave s
  | .man0 => Sys2Proof.Machine.execMan0 s
  | .man1 => Sys2Proof.Machine.execMan1 s

end Sys2Proof.Machine
end

