-- ==== Sys2Proof/Machine/Request.lean ====
section
/-! DEFINITION. How a request reaches the block: presenting an operation word, with the tests in the order
of `60_exceptions.md` rule R187, and what each input of the environment does. `Step.lean` only calls
these. -/

namespace Sys2Proof.Machine

/-- The refusal a rejected word gives (rule R191 items c and d). -/
def refusalOf : Reject → Refusal
  | .badCommand => .badCommand
  | .reservedWord => .reservedWord

/-- An operation word on the request port (rule R187): `FAULT`, then `BUSY`, then the decoder; the
operation itself makes the later tests. -/
def present (w : Byte) (s : State) : Host.Outcome State Fault Refusal :=
  whenIdle s <|
    match decode w with
    | .error r => .refused (refusalOf r)
    | .ok i => exec i s

/-- The next input is `i`, and `rest` are those after it. A host that waits for `BUSY` = 0 (rule R215)
leaves its word in the list while the operation in progress goes on. -/
def takeInput (i : Input) (rest : List Input) (s : State) : Host.Outcome State Fault Refusal :=
  match i with
  | .opw w => if s.busy then proceed s else present w { s with inputs := rest }
  | .moveName text => if s.busy then proceed s else present (moveWord text) { s with inputs := rest }
  | .opwNow w => present w { s with inputs := rest }
  | .tick => if s.busy then tickOnce { s with inputs := rest } else .next { s with inputs := rest }
  | .reset fate set => .next (resetBlock fate set { s with inputs := rest })

/-- The word presented next at the request port. -/
def putWord (w : Byte) (s : State) : State := { s with inputs := .opw w :: s.inputs }

/-- The block at the start of the first data bit of a frame whose first bit is `b`, and no input: the
next steps send the symbol of `b` (rules R123, R141 rows `DATA`). -/
def putDataBit (b : Bool) (s : State) : State :=
  { s with
    f := { s.f with f0 := if b then 0x80 else 0x00 }
    fv := true
    busy := true
    seq := { s.seq with ph := .data, half := false, bit := 0 }
    inputs := [] }

end Sys2Proof.Machine
end

