-- ==== Sys2Proof/Machine/Step.lean ====
section
/-! DEFINITION. The step: the next input if there is one, else the operation in progress. -/

namespace Sys2Proof.Machine

/-- One step of the machine. -/
def step (s : State) : Host.Outcome State Fault Refusal :=
  match s.inputs with
  | [] => proceed s
  | i :: rest => takeInput i rest s

/-- `k` steps, stopping at the first fault or refusal: the host's `Host.Core.run` of this machine, over the
state's own type. -/
def run : Nat → State → Host.Outcome State Fault Refusal
  | 0, s => .next s
  | k + 1, s =>
    match step s with
    | .next t => run k t
    | .fault r => .fault r
    | .refused r => .refused r

/-- `s` with an instruction where the next step takes it from: an operation word at the request port, or,
for the one-bit rows of format SYM, a data bit at the start of the `DATA` phase (log entry 5). -/
def State.withFetchWord (s : State) (nbits w : Nat) : State :=
  if nbits = 1 then putDataBit (w == 1) s else putWord (BitVec.ofNat 8 w) s

end Sys2Proof.Machine
end

