-- ==== Sys2Proof/Machine/Waveform.lean ====
section
/-! DEFINITION. The waveform as the rules write it out, phase by phase, and the functions with which a
recorded trace is read: its segments, its normal form, its durations, and the inverse of the Manchester
code (`00_scope.md` rules R5 to R7, `42_manchester_encoder.md` rules R124 to R126, `43_waveform_tx.md` rules
R132 to R142). The machine does not call these; claims about its trace are stated with them. -/

namespace Sys2Proof.Machine

/-- The events of a list of segments (rule R5). -/
def traceOf (gs : List Segment) : List Event := gs.flatMap (fun g => [.line g.1, .wait g.2])

/-- Wake-up (rule R132) -/
def wakeSegs (c : Cfg) : List Segment := [(true, c.tWakeHi), (false, c.tWakeLo)]

/-- Hardware sync, `n` pulse pairs (rule R133) -/
def hwsyncSegs (c : Cfg) (n : Nat) : List Segment :=
  (List.replicate n [(true, c.tHwsyncHi), (false, c.tHwsyncLo)]).flatten

/-- Software sync (rule R134) -/
def swsyncSegs (c : Cfg) : List Segment := [(true, c.tSwsyncHi), (false, c.symbol)]

/-- `man(b)` as segments (rule R120) -/
def manSegs (c : Cfg) (b : Bool) : List Segment := [manHalf c b false, manHalf c b true]

/-- The data phase: the symbols of the 56 bits with nothing between them (rule R124) -/
def dataSegs (c : Cfg) (f : Frame) : List Segment := (dataBits f).flatMap (manSegs c)

/-- Inter-frame silence (rule R136) -/
def silenceSegs (c : Cfg) : List Segment := [(false, c.tIfs)]

/-- `frame(n)`: the segments of one frame with sync count `n` (rules R130, R137). -/
def frameSegs (c : Cfg) (n : Nibble) (f : Frame) : List Segment :=
  (if n = Config.nSyncFirst then wakeSegs c else []) ++ hwsyncSegs c n.toNat ++ swsyncSegs c ++ dataSegs c f ++
    silenceSegs c

/-- The segments of a burst: a first frame and `K_REPEAT` repeats of the same bytes (rules R160, R166). -/
def burstSegs (c : Cfg) (f : Frame) : List Segment :=
  frameSegs c Config.nSyncFirst f ++ (List.replicate c.kRepeat (frameSegs c Config.nSyncRepeat f)).flatten

/-- The line part of a trace as segments: each `Line` with the `Wait` that follows it (rules R5, R137). -/
def segmentsOf : List Event → List Segment
  | .line v :: .wait n :: es => (v, n) :: segmentsOf es
  | _ :: es => segmentsOf es
  | [] => []

/-- Is the line part of a trace made of whole segments: every `Line` followed at once by one `Wait`, and
every `Wait` preceded at once by a `Line` (rule R137)? -/
def wholeSegments : List Event → Bool
  | .line _ :: .wait _ :: es => wholeSegments es
  | .line _ :: _ => false
  | .wait _ :: _ => false
  | .nvRead _ _ :: es => wholeSegments es
  | .nvWrite _ _ :: es => wholeSegments es
  | [] => true

/-- `norm`: every run of adjacent pairs of equal level merged into one (rule R7). -/
def normalForm : List Segment → List Segment
  | [] => []
  | g :: gs =>
    match normalForm gs with
    | [] => [g]
    | h :: hs => if g.1 = h.1 then (g.1, g.2 + h.2) :: hs else g :: h :: hs

/-- The levels of the data phase after the first half of bit `b`, with the bits after it, as rule R125 gives
them: `2 * SYMBOL` exactly where two consecutive bits differ. -/
def levelsFrom (c : Cfg) (b : Bool) : List Bool → List Segment
  | [] => [(b, c.symbol)]
  | d :: ds => if b = d then (b, c.symbol) :: (!d, c.symbol) :: levelsFrom c d ds
    else (b, 2 * c.symbol) :: levelsFrom c d ds

/-- The levels of a data phase with these bits (rule R125). -/
def dataLevels (c : Cfg) : List Bool → List Segment
  | [] => []
  | b :: bs => (!b, c.symbol) :: levelsFrom c b bs

/-- The time a list of segments lasts, in microseconds (rules R6, R142). -/
def duration (gs : List Segment) : Nat := (gs.map (·.2)).sum

/-- The time the line is high (rules R125, R226). -/
def highTime (gs : List Segment) : Nat := ((gs.filter (·.1)).map (·.2)).sum

/-- The data bits of a list of half-symbol levels (rule R126): `b(i) = h(2i + 1)`; none if a pair is not
complementary, so that the phase is not well formed. -/
def manDecode : List Bool → Option (List Bool)
  | [] => some []
  | [_] => none
  | h :: b :: hs => if h = !b then (manDecode hs).map (b :: ·) else none

/-- A byte from its eight bits, bit 7 first. -/
def packByte (bits : List Bool) : Byte :=
  BitVec.ofNat 8 (bits.foldl (fun acc b => 2 * acc + b.toNat) 0)

/-- The frame of 56 data bits: `F[j] = { b(8j), b(8j+1), ..., b(8j+7) }` (rule R126). -/
def packFrame (bits : List Bool) : Frame where
  f0 := packByte (bits.take 8)
  f1 := packByte ((bits.drop 8).take 8)
  f2 := packByte ((bits.drop 16).take 8)
  f3 := packByte ((bits.drop 24).take 8)
  f4 := packByte ((bits.drop 32).take 8)
  f5 := packByte ((bits.drop 40).take 8)
  f6 := packByte ((bits.drop 48).take 8)

end Sys2Proof.Machine
end

