-- ==== Sys2Proof/Safety.lean ====
section
/-! DEFINITION. What counts as a safe state and a safe host, and the invariant of the machine: the rules
of the specification about every state the block can be in. -/

namespace Sys2Proof.Machine

/-- A safe state: the block has not halted on the fatal error ("`FAULT` = 0 at the end",
`60_exceptions.md` rule R186). -/
abbrev Safe (s : State) : Prop := s.fault = false

/-- A block that takes a request: not faulted and not busy (`70_reset_and_hazards.md` rule R215). -/
abbrev Ready (s : State) : Prop := s.fault = false ∧ s.busy = false

/-- BUILD with a command code (rules R112 to R115). -/
def buildInstr : CommandCode → Instr
  | .my => .buildMy
  | .up => .buildUp
  | .down => .buildDown
  | .program => .buildProgram

/-- MOVE with a command code (rules R161 to R164). -/
def moveInstr : CommandCode → Instr
  | .my => .moveMy
  | .up => .moveUp
  | .down => .moveDown
  | .program => .moveProgram

/-- Is this an operation a host can request, and not a symbol of the data phase (rule R63)? -/
def isRequest : Instr → Bool
  | .man0 | .man1 => false
  | .moveMy | .moveUp | .moveDown | .moveProgram | .buildMy | .buildUp | .buildDown | .buildProgram => true
  | .txFirst | .txRepeat | .txInvalid _ | .load | .save => true

/-- Is a reset the next input? -/
def resetNext (s : State) : Bool :=
  match s.inputs with
  | .reset _ _ :: _ => true
  | _ => false

/-- Is this input one of a host that "presents MOVE words only" (rules R192, R221)? Time and resets are
not the host's requests. -/
def moveOnlyInput : Input → Bool
  | .opw w => w = 0x11 ∨ w = 0x12 ∨ w = 0x14 ∨ w = 0x18
  | .moveName _ => true
  | .opwNow w => w = 0x11 ∨ w = 0x12 ∨ w = 0x14 ∨ w = 0x18
  | .tick => true
  | .reset _ _ => true

/-- A host that presents MOVE words only. -/
abbrev MoveOnly (s : State) : Prop := ∀ i ∈ s.inputs, moveOnlyInput i = true

/-- The frame in the registers is the one a MOVE built with the code just consumed, and it is no stale one:
the rolling code it carries is the one before `RC` (rules R110, R160, R192). -/
abbrev CarriesLatestCode (s : State) : Prop :=
  s.fv = true ∧ s.burst = true ∧ ∃ c : CommandCode, s.f = frameOf s.cfg.keyMode s.addr (s.rc - 1) c ∧ s.cmd = c.code

/-- Does this input leave an operation in progress alone: a word whose host waits for `BUSY` = 0? -/
def waitsForIdle : Input → Bool
  | .opw _ => true
  | .moveName _ => true
  | .opwNow _ => false
  | .tick => false
  | .reset _ _ => false

/-- The next input, if any, waits for `BUSY` = 0. -/
abbrev Patient (s : State) : Prop := ∀ i, s.inputs.head? = some i → waitsForIdle i = true

/-- An input with settings inside the constraints of rule R1. -/
def inputOk : Input → Prop
  | .reset _ c => c.Ok
  | .opw _ | .moveName _ | .opwNow _ | .tick => True

/-- Is a phase one of a frame in progress? -/
def Phase.sending : Phase → Bool
  | .wake | .hwsync | .swsync | .data | .silence => true
  | .idle | .halt => false

/-- Is this an access to the store? -/
def isStoreEvent : Event → Bool
  | .nvRead _ _ | .nvWrite _ _ => true
  | .line _ | .wait _ => false

/-- The most recent access to the store in a trace. -/
def lastStoreEvent (tr : List Event) : Option Event := (tr.filter isStoreEvent).getLast?

/-- Rule R31: the slot holds `RC`, or `RC` is 1 after a read that gave none, with no write since. -/
abbrev CodeTied (s : State) : Prop :=
  slotOf s = some s.rc ∨
    (s.rc = Config.rcInit ∧ lastStoreEvent s.tr = some (.nvRead (slotAddr s.cfg) none))

/-- A trace without its levels: what an observer of the timing alone sees (rule R143). -/
def withoutLevels (tr : List Event) : List Event :=
  tr.map (fun e => match e with | .line _ => .line false | e => e)

/-- The invariant of the machine. -/
structure Inv (s : State) : Prop where
  /-- the configuration is inside the constraints of rule R1, and so is every one still to come -/
  cfgOk : s.cfg.Ok
  inputsOk : ∀ i ∈ s.inputs, inputOk i
  /-- the store keeps its canonical form -/
  nvWf : Memory.wf s.nv
  /-- rule R21: `ADDR` is the configured address -/
  addrFixed : s.addr = s.cfg.addrCfg
  /-- rule R16: `SEQ` holds no value outside the ranges of rule R15 -/
  cntLe : s.seq.cnt.toNat ≤ 6
  bitLe : s.seq.bit.toNat ≤ 55
  frmLe : s.seq.frm.toNat ≤ s.cfg.kRepeat
  /-- rules R15, R18, R145: a frame in progress keeps `BUSY`, and there is a frame to send -/
  sendingBusy : s.seq.ph.sending = true → s.busy = true ∧ s.fv = true
  /-- rule R24: `NSYNC` is 2 or 7 while a frame is in progress -/
  sendingSync : s.seq.ph.sending = true → s.nsync = Config.nSyncFirst ∨ s.nsync = Config.nSyncRepeat
  /-- rule R24: MOVE sets 2 for frame 0 and 7 for the others -/
  burstSync : s.burst = true → s.seq.ph.sending = true → (s.nsync = Config.nSyncFirst ↔ s.seq.frm = 0)
  /-- rule R132: the wake-up is sent only in a first frame -/
  wakeFirst : s.seq.ph = .wake → s.nsync = Config.nSyncFirst
  /-- rule R15: `CNT` counts the pulse pairs completed of `NSYNC` -/
  hwsyncCount : s.seq.ph = .hwsync → s.seq.cnt.toNat < s.nsync.toNat
  /-- rules R15, R25: `FRM` stays 0 for a stand-alone TX -/
  standAlone : s.burst = false → s.seq.frm = 0
  /-- rules R19, R185: `FAULT` and `HALT` go together, and a faulted block is not busy -/
  faultHalt : s.fault = true ↔ s.seq.ph = .halt
  faultIdle : s.fault = true → s.busy = false
  /-- rules R26, R181: the cause and the offending count -/
  faultCause : s.fault = true → s.fcause = causeInvalidSyncCount ∧ validSyncCount s.finfo = false
  noCause : s.fault = false → s.fcause = 0 ∧ s.finfo = 0
  /-- rule R146: the line is low while no frame is in progress -/
  restLow : s.seq.ph.sending = false → s.line = false
  /-- rule R18: an idle block has no wait left -/
  idleTimer : s.busy = false → s.timer = 0
  /-- rules R14, R23, R111: the frame in `F` is a frame of the frame builder for the command in `CMD` -/
  frameBuilt : s.fv = true → ∃ rc c, s.f = frameOf s.cfg.keyMode s.addr rc c ∧ s.cmd = c.code
  noCommand : s.fv = false → s.cmd = 0
  /-- rule R31 -/
  codeTied : CodeTied s

end Sys2Proof.Machine
end

