-- ==== Sys2Proof/Certificates/Slice0/Obligations.lean ====
section
/-! DEFINITION. The statements about the model, one `def Obligations.<Name> : Prop` each. -/

open Sys2Proof Sys2Proof.Machine

/-! ### Encodings -/

/-- Words written out bit by bit from the tables of rules R63, R64 and R67 decode to the operations they
stand for, and reserved words are refused by name. -/
def Obligations.WrittenOutWordsDecode : Prop :=
  decode 0b0001_0001 = .ok .moveMy ∧ decode 0b0001_1000 = .ok .moveProgram ∧
  decode 0b0010_0010 = .ok .buildUp ∧ decode 0b0010_0100 = .ok .buildDown ∧
  decode 0b0011_0010 = .ok .txFirst ∧ decode 0b0011_0111 = .ok .txRepeat ∧
  decode 0b0011_0011 = .ok (.txInvalid 3) ∧ decode 0b0100_0000 = .ok .load ∧
  decode 0b0101_0000 = .ok .save ∧ decodeCode (.sym false) = .ok .man0 ∧
  decodeCode (.sym true) = .ok .man1 ∧ decode 0b0001_0011 = .error .badCommand ∧
  decode 0b0010_0110 = .error .badCommand ∧ decode 0b0000_0000 = .error .reservedWord ∧
  decode 0b0100_0001 = .error .reservedWord ∧ decode 0b1111_1111 = .error .reservedWord

/-- Rules R64, R70 to R72, R78: which words are TX.INVALID, which are refused and why, and that the
words refused are 230. -/
def Obligations.DecoderClassifiesEveryWord : Prop :=
  (∀ (w : Byte) (n : Nibble), decode w = .ok (.txInvalid n) ↔
    w.extractLsb' 4 4 = 3 ∧ w.extractLsb' 0 4 = n ∧ n ≠ 2 ∧ n ≠ 7) ∧
  (∀ w : Byte, decode w = .error .badCommand ↔
    (w.extractLsb' 4 4 = 1 ∨ w.extractLsb' 4 4 = 2) ∧ w.extractLsb' 0 4 ≠ 1 ∧ w.extractLsb' 0 4 ≠ 2 ∧
      w.extractLsb' 0 4 ≠ 4 ∧ w.extractLsb' 0 4 ≠ 8) ∧
  (∀ w : Byte, decode w = .error .reservedWord ↔
    w.extractLsb' 4 4 = 0 ∨ 6 ≤ (w.extractLsb' 4 4).toNat ∨
      ((w.extractLsb' 4 4 = 4 ∨ w.extractLsb' 4 4 = 5) ∧ w.extractLsb' 0 4 ≠ 0)) ∧
  ((List.range 256).filter (fun k => (decode (BitVec.ofNat 8 k)).toOption.isNone)).length = 230

/-- Every well-formed instruction is read back from its encoding with every operand, and every word
that decodes is the encoding of a well-formed instruction. -/
def Obligations.EncodeDecodeRoundTrip : Prop :=
  (∀ i : Instr, i.wellFormed = true → decodeCode (encode i) = .ok i) ∧
  (∀ (c : Code) (i : Instr), decodeCode c = .ok i → i.wellFormed = true ∧ encode i = c)

/-- Rules R76, R77: the first byte of the text alone decides, and the word of `move "<text>"` is the MOVE of
the command it resolves to. Bytes in ASCII are the spec's own decision D23 (log entry 22). -/
def Obligations.CommandTextResolves : Prop :=
  resolve [] = .my ∧
  (∀ (c : Byte) (text : List Byte),
    ((c = 0x55 ∨ c = 0x75) → resolve (c :: text) = .up) ∧
    ((c = 0x44 ∨ c = 0x64) → resolve (c :: text) = .down) ∧
    ((c = 0x50 ∨ c = 0x70) → resolve (c :: text) = .program) ∧
    (c ≠ 0x55 → c ≠ 0x75 → c ≠ 0x44 → c ≠ 0x64 → c ≠ 0x50 → c ≠ 0x70 → resolve (c :: text) = .my)) ∧
  (∀ text : List Byte, decode (moveWord text) = .ok (moveInstr (resolve text)) ∧
    moveWord text = 0x10 ||| (resolve text).code.setWidth 8)

/-! ### The frame builder -/

/-- Rules R101 and R102: the key byte in both modes, its closed form, and when the two agree. -/
def Obligations.KeyByteOfEachMode : Prop :=
  ∀ (addr : BitVec 24) (rc : Word) (c : CommandCode),
    (plainFrame .fixed addr rc c).f0 = 0xA7 ∧
    (plainFrame .dynamic addr rc c).f0 = 0xA0 ||| ((rc - 8) &&& 0xF).setWidth 8 ∧
    (plainFrame .dynamic addr rc c).f0.extractLsb' 4 4 = 0xA ∧
    (plainFrame .dynamic addr rc c).f0.extractLsb' 0 4 = rc.extractLsb' 0 4 + 8 ∧
    (plainFrame .dynamic addr rc c).f0.extractLsb' 0 4 = rc.extractLsb' 0 4 ^^^ 0b1000 ∧
    ((plainFrame .dynamic addr rc c).f0 = 0xA7 ↔ rc.extractLsb' 0 4 = 0xF)

/-- Rules R103 to R105: the command nibble, the rolling code and the address in the plain frame, most
significant byte first; bits 31:16 of the rolling code do not enter the frame, so 65536 codes later the frame
repeats although the code does not. -/
def Obligations.PlainFrameFields : Prop :=
  ∀ (m : KeyMode) (addr : BitVec 24) (rc : Word) (c : CommandCode),
    (rawFrame m addr rc c).f1 = c.code ++ (0 : BitVec 4) ∧
    (rawFrame m addr rc .my).f1 = 0x10 ∧ (rawFrame m addr rc .up).f1 = 0x20 ∧
    (rawFrame m addr rc .down).f1 = 0x40 ∧ (rawFrame m addr rc .program).f1 = 0x80 ∧
    (plainFrame m addr rc c).f2 = rc.extractLsb' 8 8 ∧ (plainFrame m addr rc c).f3 = rc.extractLsb' 0 8 ∧
    (plainFrame m addr rc c).f4 = addr.extractLsb' 16 8 ∧ (plainFrame m addr rc c).f5 = addr.extractLsb' 8 8 ∧
    (plainFrame m addr rc c).f6 = addr.extractLsb' 0 8 ∧
    (∀ rc' : Word, rc'.extractLsb' 0 16 = rc.extractLsb' 0 16 → frameOf m addr rc' c = frameOf m addr rc c) ∧
    frameOf m addr (rc + 65536) c = frameOf m addr rc c ∧ rc + 65536 ≠ rc

/-- Rule R106: the low nibble of byte 1 is the XOR of the fourteen nibbles of the frame before it, and the
high nibble stays the command. -/
def Obligations.ChecksumNibble : Prop :=
  ∀ (m : KeyMode) (addr : BitVec 24) (rc : Word) (c : CommandCode),
    let r := rawFrame m addr rc c
    let p := plainFrame m addr rc c
    p.f1.extractLsb' 4 4 = c.code ∧
    p.f1.extractLsb' 0 4 = nibbleXor r ∧
    p.f0 = r.f0 ∧ p.f2 = r.f2 ∧ p.f3 = r.f3 ∧ p.f4 = r.f4 ∧ p.f5 = r.f5 ∧ p.f6 = r.f6

/-- Rule R107: the receiver's verification invariant, of the plain frame and not of the obfuscated bytes. -/
def Obligations.ChecksumInvariant : Prop :=
  (∀ (m : KeyMode) (addr : BitVec 24) (rc : Word) (c : CommandCode),
    nibbleXor (plainFrame m addr rc c) = 0) ∧
  nibbleXor (frameOf .fixed 0x123456 1 .up) ≠ 0

/-- Rule R108: the cascading XOR, its closed form, and that it loses nothing. -/
def Obligations.ObfuscationIsRunningXor : Prop :=
  (∀ p : Frame,
    (obfuscate p).f0 = p.f0 ∧
    (obfuscate p).f1 = p.f1 ^^^ (obfuscate p).f0 ∧ (obfuscate p).f2 = p.f2 ^^^ (obfuscate p).f1 ∧
    (obfuscate p).f3 = p.f3 ^^^ (obfuscate p).f2 ∧ (obfuscate p).f4 = p.f4 ^^^ (obfuscate p).f3 ∧
    (obfuscate p).f5 = p.f5 ^^^ (obfuscate p).f4 ∧ (obfuscate p).f6 = p.f6 ^^^ (obfuscate p).f5 ∧
    (obfuscate p).f1 = p.f0 ^^^ p.f1 ∧ (obfuscate p).f2 = p.f0 ^^^ p.f1 ^^^ p.f2 ∧
    (obfuscate p).f3 = p.f0 ^^^ p.f1 ^^^ p.f2 ^^^ p.f3 ∧
    (obfuscate p).f4 = p.f0 ^^^ p.f1 ^^^ p.f2 ^^^ p.f3 ^^^ p.f4 ∧
    (obfuscate p).f5 = p.f0 ^^^ p.f1 ^^^ p.f2 ^^^ p.f3 ^^^ p.f4 ^^^ p.f5 ∧
    (obfuscate p).f6 = p.f0 ^^^ p.f1 ^^^ p.f2 ^^^ p.f3 ^^^ p.f4 ^^^ p.f5 ^^^ p.f6) ∧
  Function.Bijective obfuscate

/-- Rule R109: de-obfuscation recovers the plain frame, and the other way round. -/
def Obligations.DeobfuscationInverts : Prop :=
  (∀ f : Frame,
    (deobfuscate f).f0 = f.f0 ∧ (deobfuscate f).f1 = f.f1 ^^^ f.f0 ∧ (deobfuscate f).f2 = f.f2 ^^^ f.f1 ∧
    (deobfuscate f).f3 = f.f3 ^^^ f.f2 ∧ (deobfuscate f).f4 = f.f4 ^^^ f.f3 ∧
    (deobfuscate f).f5 = f.f5 ^^^ f.f4 ∧ (deobfuscate f).f6 = f.f6 ^^^ f.f5) ∧
  (∀ p : Frame, deobfuscate (obfuscate p) = p) ∧ (∀ f : Frame, obfuscate (deobfuscate f) = f)

/-- Rule R118: with the key mode fixed, two different triples give different frames. -/
def Obligations.FrameIsInjective : Prop :=
  ∀ (m : KeyMode) (addr addr' : BitVec 24) (rc rc' : Word) (c c' : CommandCode),
    frameOf m addr rc c = frameOf m addr' rc' c' →
      addr = addr' ∧ rc.extractLsb' 0 16 = rc'.extractLsb' 0 16 ∧ c = c'

/-- Rule R119: the first data bit of every frame is 1, and its data phase begins low. -/
def Obligations.FirstDataBitIsOne : Prop :=
  ∀ (cfg : Cfg) (m : KeyMode) (addr : BitVec 24) (rc : Word) (c : CommandCode),
    (frameOf m addr rc c).f0.getLsbD 7 = true ∧
    dataBit (frameOf m addr rc c) 0 = some true ∧
    (dataSegs cfg (frameOf m addr rc c)).head? = some (false, cfg.symbol)

/-- The source's end-to-end vector (rule R113) and those of the three other commands (rules R112, R114,
R115). -/
def Obligations.SourceFrameVectors : Prop :=
  plainFrame .fixed 0x123456 1 .up = ⟨0xA7, 0x29, 0x00, 0x01, 0x12, 0x34, 0x56⟩ ∧
  frameOf .fixed 0x123456 1 .up = ⟨0xA7, 0x8E, 0x8E, 0x8F, 0x9D, 0xA9, 0xFF⟩ ∧
  frameOf .fixed 0x123456 1 .my = ⟨0xA7, 0xBD, 0xBD, 0xBC, 0xAE, 0x9A, 0xCC⟩ ∧
  frameOf .fixed 0x123456 1 .down = ⟨0xA7, 0xE8, 0xE8, 0xE9, 0xFB, 0xCF, 0x99⟩ ∧
  frameOf .fixed 0x123456 1 .program = ⟨0xA7, 0x24, 0x24, 0x25, 0x37, 0x03, 0x55⟩

/-- Rules R100, R110, R111: BUILD completes on every ready block. The frame carries the old rolling code, the
slot receives the new one, no other byte of the store changes, and nothing else of the state does. That BUILD
saves and that `RC` wraps are the spec's own decisions D22 and D12 (log entry 21). -/
def Obligations.BuildCompletes : Prop :=
  ∀ (c : CommandCode) (s : State), Ready s →
    ∃ t, exec (buildInstr c) s = .next t ∧
      t = { s with
        cmd := c.code, f := frameOf s.cfg.keyMode s.addr s.rc c, fv := true, rc := s.rc + 1, nv := t.nv
        tr := s.tr ++ [.nvWrite (slotAddr s.cfg) (s.rc + 1)] } ∧
      slotRead s.cfg.nvEndian t.nv (slotAddr s.cfg) = some (s.rc + 1) ∧
      (∀ x : Nat, x < slotAddr s.cfg ∨ slotAddr s.cfg + 4 ≤ x → t.nv.read x = s.nv.read x)

/-! ### The rolling-code store -/

/-- Rules R90, R93: LOAD completes on every ready block. The result of the read is the slot's value or, when
nothing was written or the read fails, none, which becomes 1; nothing else changes but the trace and the draws.
A read the script says succeeds gives the slot. Draws are the model's own (log entry 3). -/
def Obligations.LoadCompletes : Prop :=
  ∀ s : State, Ready s → ∃ r : Option Word,
    exec .load s = .next { s with
      rc := r.getD 1, tr := s.tr ++ [.nvRead (slotAddr s.cfg) r]
      readDraws := s.readDraws.tail, drawCount := s.drawCount + 1 } ∧
    (r = none ∨ r = slotOf s) ∧
    (s.readDraws.head? = some false → r = slotOf s) ∧ (s.readDraws.head? = some true → r = none)

/-- Rule R91: SAVE completes on every ready block: the slot holds `RC`, no other byte of the store changes, and
nothing else of the state does. That a write is atomic and cannot fail is the spec's own decision D15 (log
entry 11). -/
def Obligations.SaveCompletes : Prop :=
  ∀ s : State, Ready s →
    ∃ t, exec .save s = .next t ∧
      t = { s with nv := t.nv, tr := s.tr ++ [.nvWrite (slotAddr s.cfg) s.rc] } ∧
      slotRead s.cfg.nvEndian t.nv (slotAddr s.cfg) = some s.rc ∧
      (∀ x : Nat, x < slotAddr s.cfg ∨ slotAddr s.cfg + 4 ≤ x → t.nv.read x = s.nv.read x)

/-- Rules R53, R92, R94: in every step, the slot stays where it is with the byte order it has (log entry 12), a
byte outside it keeps its value, and the slot changes only by a write that is in the trace or by the loss of
the storage at a reset. -/
def Obligations.StoreChangesOnlyByWriteOrLoss : Prop :=
  ∀ s t : State, step s = .next t →
    (slotAddr t.cfg = slotAddr s.cfg ∧ t.cfg.nvEndian = s.cfg.nvEndian) ∧
    (∀ x : Nat, x < slotAddr s.cfg ∨ slotAddr s.cfg + 4 ≤ x → t.nv.read x = s.nv.read x) ∧
    (t.nv = s.nv ∨
      (∃ v, t.tr = s.tr ++ [.nvWrite (slotAddr s.cfg) v] ∧ slotOf t = some v) ∨
      (∃ set rest, s.inputs = .reset .lost set :: rest ∧ slotOf t = none))

/-- Rules R44, R94, R222: a value saved is what a later successful load gives, on any store, by LOAD and by a
reset, with whatever settings that reset is released. -/
def Obligations.SavedCodeIsLoadedBack : Prop :=
  ∀ (s : State) (d : List Bool), Ready s → s.readDraws = false :: d →
    ∃ t, exec .save s = .next t ∧ (∃ u, exec .load { t with rc := 0 } = .next u ∧ u.rc = s.rc) ∧
      ∀ (set : Settings) (rest : List Input),
        ∃ u, step { t with inputs := .reset .kept set :: rest } = .next u ∧ u.rc = s.rc ∧ slotOf u = some s.rc

/-- Rule R117: in every step whose read, if it makes one, succeeds, with the storage kept, from a slot that
holds `RC` below its last value: the slot again holds `RC`, and `RC` is unchanged, or it is one more and a frame
carrying the old value was built. The settings a reset brings do not matter (rule R222). -/
def Obligations.RollingCodeAdvancesByOne : Prop :=
  ∀ (s t : State) (d : List Bool), step s = .next t →
    slotOf s = some s.rc → s.rc ≠ 0xFFFFFFFF → s.readDraws = false :: d →
    (∀ fate set rest, s.inputs = .reset fate set :: rest → fate = .kept) →
    slotOf t = some t.rc ∧
      (t.rc = s.rc ∨ (t.rc.toNat = s.rc.toNat + 1 ∧ t.fv = true ∧
        ∃ c : CommandCode, t.f = frameOf s.cfg.keyMode s.addr s.rc c ∧ t.cmd = c.code))

/-- Rules R117, R212: over a run of any length with restarts anywhere in it, whose reads all succeed, with the
storage kept and any settings at each restart, the rolling code never falls, rises by at most one in a step,
and the slot always holds it, as long as it does not reach its last value. -/
def Obligations.RollingCodeNeverFallsAcrossRestarts : Prop :=
  ∀ (k : Nat) (s t : State) (d : List Bool), Machine.run k s = .next t →
    slotOf s = some s.rc → s.rc.toNat + k < 2 ^ 32 → s.readDraws = List.replicate k false ++ d →
    (∀ fate set, Input.reset fate set ∈ s.inputs → fate = .kept) →
    slotOf t = some t.rc ∧ s.rc.toNat ≤ t.rc.toNat ∧ t.rc.toNat ≤ s.rc.toNat + k

/-! ### The Manchester encoder -/

/-- Rules R120 to R122: the symbols MAN.0 and MAN.1, in every state: four events, the level of the bit at
the end, and nothing else written but the timer, which rule R27 loads. That one `exec`, in any state, is the
whole symbol is the model's choice (log entry 8). -/
def Obligations.ManchesterSymbols : Prop :=
  ∀ s : State,
    exec .man1 s = .next { s with
      line := true, timer := BitVec.ofNat 17 s.cfg.symbol
      tr := s.tr ++ [.line false, .wait s.cfg.symbol, .line true, .wait s.cfg.symbol] } ∧
    exec .man0 s = .next { s with
      line := false, timer := BitVec.ofNat 17 s.cfg.symbol
      tr := s.tr ++ [.line true, .wait s.cfg.symbol, .line false, .wait s.cfg.symbol] }

/-- Rules R123, R135, R141: in the `DATA` phase, two steps at a bit index fetch the bit and send exactly its
Manchester symbol, and move on to the next bit or, after the last, to the silence. That a step is one segment
is log entry 7. That one `exec` is the whole symbol is log entry 8. -/
def Obligations.DataPhaseSendsManchesterSymbols : Prop :=
  ∀ (s : State) (b : Bool), s.busy = true → Patient s → s.seq.ph = .data → s.seq.half = false →
    dataBit s.f s.seq.bit.toNat = some b →
    ∃ u, exec (decodeSym b) s = .next u ∧
      Machine.run 2 s = .next { u with
        seq := if s.seq.bit.toNat < 55 then { s.seq with bit := s.seq.bit + 1 }
          else { s.seq with ph := .silence } }

/-- Rules R124, R125: the data phase has 112 segments of `SYMBOL` microseconds, the line is high for half of
it, and it ends at the last bit of the frame. -/
def Obligations.DataPhaseShape : Prop :=
  ∀ (c : Cfg) (f : Frame),
    (dataSegs c f).length = 112 ∧ (∀ g ∈ dataSegs c f, g.2 = c.symbol) ∧
    duration (dataSegs c f) = 112 * c.symbol ∧ highTime (dataSegs c f) = 56 * c.symbol ∧
    (dataSegs c f).getLast? = some (f.f6.getLsbD 0, c.symbol)

/-- Rule R125: in the normal form of the data phase every level lasts `SYMBOL` or `2 * SYMBOL`: `2 * SYMBOL`
exactly where two consecutive data bits differ, as `dataLevels` writes it out. -/
def Obligations.DataLevelsLastOneOrTwoSymbols : Prop :=
  ∀ (c : Cfg) (f : Frame),
    normalForm (dataSegs c f) = dataLevels c (dataBits f) ∧
    (∀ g ∈ normalForm (dataSegs c f), g.2 = c.symbol ∨ g.2 = 2 * c.symbol)

/-- Rules R125, R134, R137: in normal form the low of the software sync and the first half-symbol are one low of
`2 * SYMBOL`, and a last bit 0 and the silence are one low of `SYMBOL + T_IFS`. -/
def Obligations.DataPhaseMergesWithItsNeighbours : Prop :=
  ∀ (cfg : Cfg) (m : KeyMode) (addr : BitVec 24) (rc : Word) (c : CommandCode),
    let f := frameOf m addr rc c
    (normalForm (swsyncSegs cfg ++ dataSegs cfg f)).take 2 = [(true, cfg.tSwsyncHi), (false, 2 * cfg.symbol)] ∧
    (normalForm (dataSegs cfg f ++ silenceSegs cfg)).getLast? =
      some (false, if f.f6.getLsbD 0 then cfg.tIfs else cfg.symbol + cfg.tIfs)

/-- Rule R126: the frame is read back from the levels of its data phase. -/
def Obligations.DataPhaseDecodes : Prop :=
  (∀ (c : Cfg) (f : Frame), manDecode ((dataSegs c f).map (·.1)) = some (dataBits f)) ∧
  (∀ f : Frame, packFrame (dataBits f) = f) ∧
  (∀ hs bs : List Bool, manDecode hs = some bs ↔ hs = bs.flatMap (fun b => [!b, b]))

/-- Rule R7: the normal form keeps the duration and the high time, and no two neighbours of it have the
same level. -/
def Obligations.NormalFormMergesLevels : Prop :=
  ∀ gs : List Segment,
    duration (normalForm gs) = duration gs ∧ highTime (normalForm gs) = highTime gs ∧
    (normalForm gs).IsChain (fun g h => g.1 ≠ h.1)

/-! ### The transmitter -/

/-- Rules R130, R138: TX.FIRST on a ready block with a frame is accepted, and 122 steps later the block is
idle, the trace has the 121 segments of a first frame carrying `F`, the line is low, and nothing else changed
but the sequencer's own registers. Requests that wait for `BUSY` = 0 do not disturb it. That a step is one
segment, and the values left in `SEQ`, are log entries 7 and 16. That `exec` is the acceptance is log entry 8. -/
def Obligations.TxFirstSendsFirstFrame : Prop :=
  ∀ s : State, Ready s → s.fv = true → Patient s →
    ∃ t, exec .txFirst s = .next t ∧ t.busy = true ∧ t.tr = s.tr ∧
      (frameSegs s.cfg 2 s.f).length = 121 ∧
      Machine.run 122 t = .next { s with
        line := false, timer := 0, nsync := 2, burst := false
        seq := { ph := .idle, half := false, cnt := 1, bit := 55, frm := 0 }
        tr := s.tr ++ traceOf (frameSegs s.cfg 2 s.f) }

/-- Rules R130, R139: TX.REPEAT in the same way, with the 129 segments of a repeat frame. As there, log entries
7 and 16. That `exec` is the acceptance is log entry 8. -/
def Obligations.TxRepeatSendsRepeatFrame : Prop :=
  ∀ s : State, Ready s → s.fv = true → Patient s →
    ∃ t, exec .txRepeat s = .next t ∧ t.busy = true ∧ t.tr = s.tr ∧
      (frameSegs s.cfg 7 s.f).length = 129 ∧
      Machine.run 130 t = .next { s with
        line := false, timer := 0, nsync := 7, burst := false
        seq := { ph := .idle, half := false, cnt := 6, bit := 55, frm := 0 }
        tr := s.tr ++ traceOf (frameSegs s.cfg 7 s.f) }

/-- Rules R130, R141: what an accepted TX writes at its acceptance, in both forms. That the fields of `SEQ` no
rule names stay is log entry 16. That `exec` is the acceptance is log entry 8. -/
def Obligations.TxAcceptance : Prop :=
  ∀ s : State, Ready s → s.fv = true →
    exec .txFirst s = .next { s with
      nsync := 2, burst := false, busy := true
      seq := { s.seq with ph := .wake, half := false, frm := 0 } } ∧
    exec .txRepeat s = .next { s with
      nsync := 7, burst := false, busy := true
      seq := { s.seq with ph := .hwsync, half := false, cnt := 0, frm := 0 } }

/-- Rule R145: with `FV` = 0, TX.FIRST and TX.REPEAT are refused. The rule is the spec's own decision D16 (log
entry 13). -/
def Obligations.TxWithoutFrameIsRefused : Prop :=
  ∀ s : State, Ready s → s.fv = false →
    exec .txFirst s = .refused .noFrame ∧ exec .txRepeat s = .refused .noFrame

/-- Rules R140, R185: TX.INVALID takes the exception on every ready block, whether or not there is a frame: the
five writes of rule R185, and nothing else changes. What the exception leaves is the spec's own decision D9
(log entry 14); that only `PH` of `SEQ` changes is log entry 16. -/
def Obligations.TxInvalidTakesTheException : Prop :=
  ∀ (n : Nibble) (s : State), (Instr.txInvalid n).wellFormed = true → Ready s →
    exec (.txInvalid n) s = .next { s with
      fault := true, fcause := 1, finfo := n, seq := { s.seq with ph := .halt }, busy := false }

/-- Rule R141: the table of the sequencer, one clause a row, for a busy block and a next input, if any, that
waits. That a step is one segment, and that `BUSY` falls in a step of its own, are log entry 7. -/
def Obligations.SequencerFollowsItsTable : Prop :=
  ∀ s : State, s.busy = true → Patient s →
    (s.seq.ph = .wake → s.seq.half = false →
      step s = .next { emit (true, s.cfg.tWakeHi) s with seq := { s.seq with half := true } }) ∧
    (s.seq.ph = .wake → s.seq.half = true →
      step s = .next { emit (false, s.cfg.tWakeLo) s with
        seq := { s.seq with ph := .hwsync, half := false, cnt := 0 } }) ∧
    (s.seq.ph = .hwsync → s.seq.half = false →
      step s = .next { emit (true, s.cfg.tHwsyncHi) s with seq := { s.seq with half := true } }) ∧
    (s.seq.ph = .hwsync → s.seq.half = true → s.seq.cnt.toNat + 1 < s.nsync.toNat →
      step s = .next { emit (false, s.cfg.tHwsyncLo) s with
        seq := { s.seq with half := false, cnt := s.seq.cnt + 1 } }) ∧
    (s.seq.ph = .hwsync → s.seq.half = true → ¬ s.seq.cnt.toNat + 1 < s.nsync.toNat →
      step s = .next { emit (false, s.cfg.tHwsyncLo) s with
        seq := { s.seq with ph := .swsync, half := false } }) ∧
    (s.seq.ph = .swsync → s.seq.half = false →
      step s = .next { emit (true, s.cfg.tSwsyncHi) s with seq := { s.seq with half := true } }) ∧
    (s.seq.ph = .swsync → s.seq.half = true →
      step s = .next { emit (false, s.cfg.symbol) s with
        seq := { s.seq with ph := .data, half := false, bit := 0 } }) ∧
    (∀ b, s.seq.ph = .data → s.seq.half = false → dataBit s.f s.seq.bit.toNat = some b →
      step s = .next { emit (!b, s.cfg.symbol) s with seq := { s.seq with half := true } }) ∧
    (∀ b, s.seq.ph = .data → s.seq.half = true → s.seq.bit.toNat < 55 →
      dataBit s.f s.seq.bit.toNat = some b →
      step s = .next { emit (b, s.cfg.symbol) s with
        seq := { s.seq with half := false, bit := s.seq.bit + 1 } }) ∧
    (∀ b, s.seq.ph = .data → s.seq.half = true → ¬ s.seq.bit.toNat < 55 →
      dataBit s.f s.seq.bit.toNat = some b →
      step s = .next { emit (b, s.cfg.symbol) s with
        seq := { s.seq with ph := .silence, half := false } }) ∧
    (s.seq.ph = .silence → s.burst = true → s.seq.frm.toNat < s.cfg.kRepeat →
      step s = .next { emit (false, s.cfg.tIfs) s with
        nsync := 7
        seq := { s.seq with ph := .hwsync, half := false, cnt := 0, frm := s.seq.frm + 1 } }) ∧
    (s.seq.ph = .silence → ¬ (s.burst = true ∧ s.seq.frm.toNat < s.cfg.kRepeat) →
      step s = .next { emit (false, s.cfg.tIfs) s with seq := { s.seq with ph := .idle } }) ∧
    (s.seq.ph = .idle → step s = .next { s with timer := 0, busy := false })

/-- Rule R141, rows `IDLE` and `HALT`: without an input, a block that is not busy stays as it is. -/
def Obligations.RestingBlockStays : Prop :=
  ∀ s : State, s.busy = false → s.inputs = [] → step s = .next s

/-- Rules R142, R167: the number of segments and the duration of a first frame, a repeat frame and a burst, as
formulas for every frame and configuration, and with `REF`; the repeats of a burst are two or four. The durations of `REF` are log entry 19. -/
def Obligations.FrameCountsAndDurations : Prop :=
  (∀ (c : Cfg) (f : Frame),
    (frameSegs c 2 f).length = 121 ∧ (frameSegs c 7 f).length = 129 ∧
    duration (frameSegs c 2 f) =
      c.tWakeHi + c.tWakeLo + 2 * (c.tHwsyncHi + c.tHwsyncLo) + c.tSwsyncHi + 113 * c.symbol + c.tIfs ∧
    duration (frameSegs c 7 f) = 7 * (c.tHwsyncHi + c.tHwsyncLo) + c.tSwsyncHi + 113 * c.symbol + c.tIfs ∧
    (c.kRepeat = 2 ∨ c.kRepeat = 4) ∧
    (burstSegs c f).length = 121 + 129 * c.kRepeat ∧
    duration (burstSegs c f) = duration (frameSegs c 2 f) + c.kRepeat * duration (frameSegs c 7 f)) ∧
  (∀ f : Frame,
    duration (frameSegs Cfg.ref 2 f) = 216505 ∧ duration (frameSegs Cfg.ref 7 f) = 143125 ∧
    (burstSegs Cfg.ref f).length = 379 ∧ duration (burstSegs Cfg.ref f) = 502755 ∧
    (burstSegs { Cfg.ref with repeats := .four } f).length = 637 ∧
    duration (burstSegs { Cfg.ref with repeats := .four } f) = 789005)

/-- Rule R143: the timing does not depend on the frame. With no input, two runs that differ only in the
contents of `F` are in the same place with the same time left, and their traces differ only in levels. -/
def Obligations.TimingIndependentOfFrame : Prop :=
  ∀ (k : Nat) (s t : State) (g : Frame), s.inputs = [] → Machine.run k s = .next t →
    ∃ t', Machine.run k { s with f := g } = .next t' ∧
      t'.seq = t.seq ∧ t'.timer = t.timer ∧ t'.busy = t.busy ∧ t'.nsync = t.nsync ∧
      withoutLevels t'.tr = withoutLevels t.tr

/-- Rule R27: letting the microseconds of a wait pass one at a time comes to the state with no time left, from
which the transmitter goes on exactly as from the start of the wait. Ticks are the model's own input (log
entries 6 and 7). -/
def Obligations.TimerCountsDown : Prop :=
  (∀ (k : Nat) (s : State) (rest : List Input), s.busy = true → k ≤ s.timer.toNat →
    s.inputs = List.replicate k .tick ++ rest →
    Machine.run k s =
      .next { s with timer := BitVec.ofNat 17 (s.timer.toNat - k), inputs := rest }) ∧
  (∀ (s : State) (n : BitVec 17), advance { s with timer := n } = advance s ∨ s.seq.ph = .halt)

/-- Rule R137: every step keeps the line part of the trace a sequence of whole segments. -/
def Obligations.TraceStaysWholeSegments : Prop :=
  ∀ s t : State, wholeSegments s.tr = true → step s = .next t → wholeSegments t.tr = true

/-- Rule R144: a busy block with a waiting next input comes to the end of its operation within 638 steps,
unfaulted, with the line low, and the same frame, rolling code, store and requests. The bound counts steps as
log entry 7 defines them. -/
def Obligations.AcceptedOperationCompletes : Prop :=
  ∀ s : State, Inv s → s.busy = true → Patient s →
    ∃ k t, k ≤ 638 ∧ Machine.run k s = .next t ∧ t.busy = false ∧ t.fault = false ∧
      t.line = false ∧ t.seq.ph = .idle ∧ t.f = s.f ∧ t.rc = s.rc ∧ t.nv = s.nv ∧ t.inputs = s.inputs ∧
      (∃ gs, t.tr = s.tr ++ traceOf gs)

/-! ### The burst controller -/

/-- Rules R160, R165 to R167: MOVE completes on every ready block: it consumes one rolling code, saves the next
before any line event, and 122 + 129 * `K_REPEAT` steps later the block is idle, with a first frame and
`K_REPEAT` repeats of the same frame in the trace. Steps and the values left in `SEQ` are log entries 7 and 16;
the silence at the end of the burst is the spec's own decision D21 (log entry 21). That `exec` is the
acceptance is log entry 8. -/
def Obligations.MoveSendsBurst : Prop :=
  ∀ (c : CommandCode) (s : State), Ready s → Patient s →
    ∃ t, exec (moveInstr c) s = .next t ∧ t.busy = true ∧
      t.tr = s.tr ++ [.nvWrite (slotAddr s.cfg) (s.rc + 1)] ∧
      slotRead s.cfg.nvEndian t.nv (slotAddr s.cfg) = some (s.rc + 1) ∧
      (∀ x : Nat, x < slotAddr s.cfg ∨ slotAddr s.cfg + 4 ≤ x → t.nv.read x = s.nv.read x) ∧
      Machine.run (122 + 129 * s.cfg.kRepeat) t = .next { s with
        cmd := c.code, f := frameOf s.cfg.keyMode s.addr s.rc c, fv := true, rc := s.rc + 1, nv := t.nv
        line := false, timer := 0, nsync := 7, burst := true
        seq := { ph := .idle, half := false, cnt := 6, bit := 55, frm := BitVec.ofNat 3 s.cfg.kRepeat }
        tr := s.tr ++ .nvWrite (slotAddr s.cfg) (s.rc + 1) ::
          traceOf (burstSegs s.cfg (frameOf s.cfg.keyMode s.addr s.rc c)) }

/-- Rule R160: what MOVE writes at its acceptance: BUILD's effect and the start of the first frame. That `CNT`
and `BIT` stay is log entry 16. That `exec` is the acceptance is log entry 8. -/
def Obligations.MoveAcceptance : Prop :=
  ∀ (c : CommandCode) (s : State), Ready s →
    ∃ b, exec (buildInstr c) s = .next b ∧
      exec (moveInstr c) s = .next { b with
        burst := true, busy := true, nsync := 2
        seq := { s.seq with ph := .wake, half := false, frm := 0 } }

/-- Rule R171: from a ready block, MOVE c and the sequence BUILD c, TX 2, then `K_REPEAT` times TX 7, each
presented when `BUSY` is 0, end idle with the same trace, frame, `FV`, `RC`, store, `CMD` and line. The numbers
of steps are those of log entry 7. -/
def Obligations.MoveEqualsBuildAndTransmissions : Prop :=
  ∀ (c : CommandCode) (s : State), Ready s →
    ∃ u v,
      Machine.run (123 + 129 * s.cfg.kRepeat)
        { s with inputs := [.opw (0x10 ||| c.code.setWidth 8)] } = .next u ∧
      Machine.run (124 + 131 * s.cfg.kRepeat)
        { s with inputs := .opw (0x20 ||| c.code.setWidth 8) :: .opw 0x32 ::
            List.replicate s.cfg.kRepeat (.opw 0x37) } = .next v ∧
      u.busy = false ∧ v.busy = false ∧ u.tr = v.tr ∧ u.f = v.f ∧ u.fv = v.fv ∧ u.rc = v.rc ∧ u.nv = v.nv ∧
      u.cmd = v.cmd ∧ u.line = v.line

/-- Rule R146: in a state of the invariant, the first event after an accepted TX or MOVE drives the line from
low to high. The low line before the first frame is the spec's own decision D10 (log entry 20). That `exec` is
the acceptance is log entry 8. -/
def Obligations.TransmissionStartsWithRisingEdge : Prop :=
  ∀ (i : Instr) (s t : State), Inv s → isRequest i = true → exec i s = .next t → t.busy = true → Patient t →
    t.line = false ∧ ∃ u n, step t = .next u ∧ u.line = true ∧ u.tr = t.tr ++ [.line true, .wait n]

/-! ### Requests, refusals and the fault -/

/-- A request on the port is the decoded operation performed: when the next input presents a word that
decodes, on a ready block, the step is that operation at the state without the input. -/
def Obligations.StepRunsDecodedOperation : Prop :=
  ∀ (s : State) (w : Byte) (i : Instr) (rest : List Input), Ready s → decode w = .ok i →
    (s.inputs = .opw w :: rest ∨ s.inputs = .opwNow w :: rest) →
    step s = exec i { s with inputs := rest }

/-- The same for the place the host puts a word in: the next step performs it at the state itself. How a word
is placed is log entry 5. -/
def Obligations.FetchedWordIsPerformed : Prop :=
  ∀ (s : State) (w : Nat) (i : Instr), Ready s → decodeTableWord 8 w = some i →
    step (s.withFetchWord 8 w) = exec i s

/-- Rule R172: a call of `move(commandName)` on a ready block is the MOVE of the command it resolves to. -/
def Obligations.StepRunsNamedMove : Prop :=
  ∀ (s : State) (text : List Byte) (rest : List Input), Ready s → s.inputs = .moveName text :: rest →
    step s = exec (moveInstr (resolve text)) { s with inputs := rest }

/-- Rules R187, R189, R191: the tests of a word presented at once, in their order, and what is left when all
pass. -/
def Obligations.RequestTestsInOrder : Prop :=
  ∀ (s : State) (w : Byte) (rest : List Input), s.inputs = .opwNow w :: rest →
    (s.fault = true → step s = .refused .faulted) ∧
    (s.fault = false → s.busy = true → step s = .refused .busy) ∧
    (Ready s → decode w = .error .badCommand → step s = .refused .badCommand) ∧
    (Ready s → decode w = .error .reservedWord → step s = .refused .reservedWord) ∧
    (∀ n, Ready s → decode w = .ok (.txInvalid n) →
      step s = .next { s with
        inputs := rest, fault := true, fcause := 1, finfo := n, seq := { s.seq with ph := .halt }
        busy := false }) ∧
    (Ready s → (w = 0x32 ∨ w = 0x37) → s.fv = false → step s = .refused .noFrame) ∧
    (∀ i, Ready s → decode w = .ok i → (∀ n, i ≠ .txInvalid n) →
      (i = .txFirst ∨ i = .txRepeat → s.fv = true) → ∃ t, step s = .next t ∧ t.fault = false)

/-- Rule R191 items a and b: no operation a host can request is performed while `FAULT` or `BUSY` is 1. -/
def Obligations.OperationsRefusedWhenNotReady : Prop :=
  ∀ (i : Instr) (s : State), isRequest i = true →
    (s.fault = true → exec i s = .refused .faulted) ∧
    (s.fault = false → s.busy = true → exec i s = .refused .busy)

/-- Rules R19, R181, R186: in every step, `FAULT` becomes 1 only by a TX.INVALID word on the port, which
records the cause and the count; once 1 it stays 1 unless the step is a reset; and while it is 1 every
operation is refused. The fault's effects are the spec's own decision D9 (log entry 14). -/
def Obligations.FaultOnlyByInvalidCountAndSticky : Prop :=
  ∀ s t : State, step s = .next t →
    (s.fault = false → t.fault = true →
      ∃ w n rest, (s.inputs = .opw w :: rest ∨ s.inputs = .opwNow w :: rest) ∧ decode w = .ok (.txInvalid n) ∧
        n ≠ 2 ∧ n ≠ 7 ∧ t.fcause = 1 ∧ t.finfo = n ∧ t.seq.ph = .halt ∧ t.busy = false) ∧
    (s.fault = true → resetNext s = false →
      t.fault = true ∧ t.fcause = s.fcause ∧ t.finfo = s.finfo) ∧
    (s.fault = true → ∀ i, isRequest i = true → exec i s = .refused .faulted)

/-- Rule R192: a host that presents MOVE words only never raises the exception, in a run of any length
from an unfaulted state, and is never refused for a missing frame or a bad word. -/
def Obligations.MoveOnlyHostIsSafe : Prop :=
  ∀ s : State, Safe s → MoveOnly s →
    (∀ (k : Nat) (t : State), Machine.run k s = .next t → Safe t ∧ MoveOnly t) ∧
    (∀ k : Nat, Machine.run k s ≠ .refused .noFrame ∧
      Machine.run k s ≠ .refused .faulted ∧
      Machine.run k s ≠ .refused .badCommand ∧
      Machine.run k s ≠ .refused .reservedWord)

/-- Rule R192: a host that presents MOVE words only never transmits a stale frame. In a run of any length from
an unfaulted state that is idle or sends the frame of its latest code, a busy block sends the frame that
carries the code before `RC`; every transmission starts by consuming a new code, which its frame carries; and
a busy block keeps frame and code. -/
def Obligations.MoveOnlyHostSendsNoStaleFrame : Prop :=
  ∀ s : State, Safe s → MoveOnly s → (s.busy = true → CarriesLatestCode s) →
    ∀ (k : Nat) (t u : State), Machine.run k s = .next t → step t = .next u →
      (t.busy = true → CarriesLatestCode t) ∧
      (t.busy = false → u.busy = true → u.rc = t.rc + 1 ∧ CarriesLatestCode u) ∧
      (t.busy = true → u.busy = true → u.rc = t.rc ∧ u.f = t.f)

/-- Rules R13, R57: while the block is busy, no step but a reset writes the frame registers, `FV`, `CMD`,
`RC`, `ADDR`, the store, the configuration or `BURST`. -/
def Obligations.FrameIsStableWhileBusy : Prop :=
  ∀ s t : State, s.busy = true → resetNext s = false → step s = .next t →
    t.f = s.f ∧ t.fv = s.fv ∧ t.cmd = s.cmd ∧ t.rc = s.rc ∧ t.addr = s.addr ∧ t.nv = s.nv ∧ t.cfg = s.cfg ∧
      t.burst = s.burst

/-- Rules R1, R21, R33, R222: no step but a reset writes `ADDR` or the configuration; a reset loads `ADDR` from the
settings it is released with, and leaves the place and the byte order of the slot. The configuration in the
state and the reset input are log entries 1, 6 and 12. -/
def Obligations.AddressAndConfigurationAreFixed : Prop :=
  ∀ s t : State, step s = .next t →
    (resetNext s = false → t.addr = s.addr ∧ t.cfg = s.cfg) ∧
    (∀ fate set rest, s.inputs = .reset fate set :: rest →
      t.addr = set.addrCfg ∧ t.cfg = { s.cfg with toSettings := set })

/-- What every operation leaves alone when its `exec` answers a next state, for TX and MOVE at the acceptance
only, which is what `exec` of them is (log entry 8, the model's choice; the later steps write `LINE` and
`TIMER`, as TxFirstSendsFirstFrame, TxRepeatSendsRepeatFrame and MoveSendsBurst say): the address, the
configuration and the requests of the host for all; the frame, `FV` and `CMD` for all but MOVE and BUILD; `RC`
for all but those and LOAD; every byte of the store for all but MOVE, BUILD and SAVE, and every byte outside
the slot for these; the line and the timer for all but MAN.0 and MAN.1; and the fault registers for all but
TX.INVALID. -/
def Obligations.OperationFrames : Prop :=
  ∀ (i : Instr) (s t : State), exec i s = .next t →
    (t.addr = s.addr ∧ t.cfg = s.cfg ∧ t.inputs = s.inputs) ∧
    ((∀ c, i ≠ moveInstr c ∧ i ≠ buildInstr c) → t.f = s.f ∧ t.fv = s.fv ∧ t.cmd = s.cmd) ∧
    ((∀ c, i ≠ moveInstr c ∧ i ≠ buildInstr c) → i ≠ .load → t.rc = s.rc) ∧
    ((∀ c, i ≠ moveInstr c ∧ i ≠ buildInstr c) → i ≠ .save → ∀ x : Nat, t.nv.read x = s.nv.read x) ∧
    (∀ x : Nat, x < slotAddr s.cfg ∨ slotAddr s.cfg + 4 ≤ x → t.nv.read x = s.nv.read x) ∧
    (i ≠ .man0 → i ≠ .man1 → t.line = s.line ∧ t.timer = s.timer) ∧
    ((∀ n, i ≠ .txInvalid n) → t.fault = s.fault ∧ t.fcause = s.fcause ∧ t.finfo = s.finfo)

/-! ### Reset and the invariant -/

/-- Rules R210 to R212, R53: what a reset leaves, from every state, faulted or busy: the result r of its one
read, which is in the new trace, and `RC` = r or 1; the store as it was, or with the slot lost and every other
byte as it was. The frame registers hold a free value, of which the statement
says nothing. The inputs and draws still to come are the model's own. Log entries 2, 3, 6 and 12. -/
def Obligations.ResetLeaves : Prop :=
  ∀ (s : State) (fate : StoreFate) (set : Settings) (rest : List Input), s.inputs = .reset fate set :: rest →
    ∃ t r, step s = .next t ∧
      t = { State.reset with
        cfg := { s.cfg with toSettings := set }, f := t.f, addr := set.addrCfg, rc := r.getD 1, nv := t.nv
        tr := [.nvRead (slotAddr s.cfg) r], inputs := rest, readDraws := s.readDraws.tail, drawCount := t.drawCount } ∧
      (fate = .kept → t.nv = s.nv) ∧ (fate = .lost → r = none ∧ slotOf t = none) ∧
      (∀ x : Nat, x < slotAddr s.cfg ∨ slotAddr s.cfg + 4 ≤ x → t.nv.read x = s.nv.read x) ∧
      (r = none ∨ r = slotOf t) ∧
      (s.readDraws.head? = some false → r = slotOf t) ∧ (s.readDraws.head? = some true → r = none)

/-- The values the reset state has by rule R211: idle, unfaulted, no frame, line low, `RC` = 1 from a slot that
was never written. The never-written store and the configuration are log entry 18; the low line is the spec's
own decision D10 (log entry 20). -/
def Obligations.ResetStateValues : Prop :=
  State.reset.fv = false ∧ State.reset.seq = ⟨.idle, false, 0, 0, 0⟩ ∧ State.reset.line = false ∧
  State.reset.busy = false ∧ State.reset.fault = false ∧ State.reset.fcause = 0 ∧ State.reset.finfo = 0 ∧
  State.reset.addr = State.reset.cfg.addrCfg ∧ State.reset.rc = 1 ∧ State.reset.cmd = 0 ∧
  State.reset.nsync = 0 ∧ State.reset.burst = false ∧ State.reset.timer = 0 ∧ State.reset.nv = [] ∧
  State.reset.tr = [.nvRead (slotAddr State.reset.cfg) none]

/-- The invariant holds right after reset. -/
def Obligations.ResetSatisfiesInvariant : Prop := Inv State.reset

/-- Every step keeps the invariant: the ranges of `SEQ` (R16), the meaning of `BUSY`, `FAULT` and `NSYNC`
(R18, R19, R24), the low line at rest (R146), the frame in `F` (R111), the store's form, and the tie between
`RC` and the slot (R31). -/
def Obligations.StepKeepsInvariant : Prop :=
  ∀ s t : State, Inv s → step s = .next t → Inv t

/-- In a state of the invariant no step answers a fault: the sequencer never leaves its ranges. -/
def Obligations.InvariantExcludesFaults : Prop :=
  ∀ (s : State) (r : Fault), Inv s → step s ≠ .fault r

/-- Rule R107 carried to the registers: in a state of the invariant with a frame, the nibbles of the
de-obfuscated frame registers XOR to 0 and their key byte has high nibble 0xA, as a receiver checks. -/
def Obligations.HeldFramePassesReceiverCheck : Prop :=
  ∀ s : State, Inv s → s.fv = true →
    checksum (deobfuscate s.f) = 0 ∧ s.f.f0.extractLsb' 4 4 = 0xA
end

