-- ==== Sys2Proof/Laws/Memory.lean ====
section
/-! SUPPORT. The laws of the store: reading after writing and erasing, one byte and one slot, and that
every operation keeps the canonical form. -/

namespace Sys2Proof.Machine

theorem read_write_same (m : Memory) (a : Nat) (v : Byte) : (Memory.write m a v).read a = some v := by
  induction m with
  | nil => simp [Memory.write, Memory.read]
  | cons c m ih =>
    obtain ⟨k, b⟩ := c
    simp only [Memory.write]
    split
    · simp [Memory.read]
    · split
      · simp [Memory.read]
      · rename_i h
        simp [Memory.read, Ne.symm h, ih]

theorem read_write_other (m : Memory) {a x : Nat} (v : Byte) (h : x ≠ a) :
    (Memory.write m a v).read x = m.read x := by
  induction m with
  | nil => simp [Memory.write, Memory.read, Ne.symm h]
  | cons c m ih =>
    obtain ⟨k, b⟩ := c
    simp only [Memory.write]
    split
    · simp [Memory.read, Ne.symm h]
    · split
      · subst_vars
        simp [Memory.read, Ne.symm h]
      · simp [Memory.read, ih]

theorem read_write (m : Memory) (a x : Nat) (v : Byte) :
    (Memory.write m a v).read x = if x = a then some v else m.read x := by
  split
  · subst_vars; exact read_write_same m _ v
  · exact read_write_other m v ‹_›

theorem read_erase (m : Memory) (a x : Nat) :
    (Memory.erase m a).read x = if x = a then none else m.read x := by
  induction m with
  | nil => simp [Memory.erase, Memory.read]
  | cons c m ih =>
    obtain ⟨k, b⟩ := c
    simp only [Memory.erase, List.filter_cons] at ih ⊢
    by_cases hk : k = a
    · subst hk
      by_cases hx : x = k
      · simpa [hx] using ih
      · simpa [hx, Memory.read, Ne.symm hx] using ih
    · by_cases hx : k = x
      · subst hx
        simp [hk, Memory.read]
      · simpa [hk, Memory.read, hx] using ih

/-- Every offset listed after a write was listed before, or is the one written. -/
theorem mem_write {m : Memory} {a : Nat} {v : Byte} {c : Host.Cell} (h : c ∈ Memory.write m a v) :
    c = (a, v) ∨ c ∈ m := by
  induction m with
  | nil => simpa [Memory.write] using h
  | cons d m ih =>
    obtain ⟨k, b⟩ := d
    simp only [Memory.write] at h
    split at h
    · simpa using h
    · split at h
      · rcases List.mem_cons.1 h with h | h
        · exact .inl h
        · exact .inr (List.mem_cons_of_mem _ h)
      · rcases List.mem_cons.1 h with h | h
        · exact .inr (h ▸ List.mem_cons_self)
        · exact (ih h).imp_right (List.mem_cons_of_mem _)

theorem wf_write {m : Memory} (h : m.wf) (a : Nat) (v : Byte) : (Memory.write m a v).wf := by
  induction m with
  | nil => simp [Memory.write, Memory.wf]
  | cons c m ih =>
    obtain ⟨k, b⟩ := c
    obtain ⟨hk, hm⟩ := List.pairwise_cons.1 h
    simp only [Memory.write]
    split
    · rename_i hak
      refine List.pairwise_cons.2 ⟨fun c hc => ?_, h⟩
      rcases List.mem_cons.1 hc with rfl | hc
      · exact hak
      · exact Nat.lt_trans hak (hk c hc)
    · split
      · subst_vars
        exact List.pairwise_cons.2 ⟨hk, hm⟩
      · refine List.pairwise_cons.2 ⟨fun c hc => ?_, ih hm⟩
        rcases mem_write hc with rfl | hc
        · show k < a
          omega
        · exact hk c hc

theorem wf_erase {m : Memory} (h : m.wf) (a : Nat) : (Memory.erase m a).wf := List.Pairwise.filter _ h

theorem wf_slotWrite {m : Memory} (h : m.wf) (e : Endian) (a : Nat) (v : Word) : (slotWrite e m a v).wf :=
  wf_write (wf_write (wf_write (wf_write h _ _) _ _) _ _) _ _

theorem wf_slotErase {m : Memory} (h : m.wf) (a : Nat) : (slotErase m a).wf :=
  wf_erase (wf_erase (wf_erase (wf_erase h _) _) _) _

/-- The four bytes of a value, joined again, are the value. -/
@[simp] theorem joinBytes_byteOf (e : Endian) (v : Word) :
    joinBytes e (byteOf e v 0) (byteOf e v 1) (byteOf e v 2) (byteOf e v 3) = v := by
  cases e <;> simp only [joinBytes, byteOf]
  all_goals
    ext i hi
    simp only [BitVec.getElem_append, BitVec.getElem_extractLsb']
    split
    · simp [BitVec.getLsbD_eq_getElem, hi]
    · split
      · rw [← BitVec.getLsbD_eq_getElem hi]; congr 1; omega
      · split
        · rw [← BitVec.getLsbD_eq_getElem hi]; congr 1; omega
        · rw [← BitVec.getLsbD_eq_getElem hi]; congr 1; omega

/-- A byte outside the four of the slot is unchanged by a write of the slot. -/
theorem read_slotWrite_outside (e : Endian) (m : Memory) (a x : Nat) (v : Word)
    (h : x < a ∨ a + 4 ≤ x) : (slotWrite e m a v).read x = m.read x := by
  have h0 : x ≠ a := by omega
  have h1 : x ≠ a + 1 := by omega
  have h2 : x ≠ a + 2 := by omega
  have h3 : x ≠ a + 3 := by omega
  simp [slotWrite, read_write, h0, h1, h2, h3]

/-- Byte `i` of the slot after a write of the slot. -/
theorem read_slotWrite_inside (e : Endian) (m : Memory) (a i : Nat) (v : Word) (h : i < 4) :
    (slotWrite e m a v).read (a + i) = some (byteOf e v i) := by
  obtain rfl | rfl | rfl | rfl : i = 0 ∨ i = 1 ∨ i = 2 ∨ i = 3 := by omega
  all_goals simp [slotWrite, read_write]

/-- Rule R94: a read of the slot after a write of it gives the value written. -/
@[simp] theorem slotRead_slotWrite (e : Endian) (m : Memory) (a : Nat) (v : Word) :
    slotRead e (slotWrite e m a v) a = some v := by
  have h0 := read_slotWrite_inside e m a 0 v (by omega)
  have h1 := read_slotWrite_inside e m a 1 v (by omega)
  have h2 := read_slotWrite_inside e m a 2 v (by omega)
  have h3 := read_slotWrite_inside e m a 3 v (by omega)
  rw [Nat.add_zero] at h0
  simp [slotRead, h0, h1, h2, h3]

/-- Rule R53: a lost slot reads as none. -/
@[simp] theorem slotRead_slotErase (e : Endian) (m : Memory) (a : Nat) :
    slotRead e (slotErase m a) a = none := by
  simp [slotRead, slotErase, read_erase]

/-- A byte outside the slot is unchanged by its loss. -/
theorem read_slotErase_outside (m : Memory) (a x : Nat) (h : x < a ∨ a + 4 ≤ x) :
    (slotErase m a).read x = m.read x := by
  have h0 : x ≠ a := by omega
  have h1 : x ≠ a + 1 := by omega
  have h2 : x ≠ a + 2 := by omega
  have h3 : x ≠ a + 3 := by omega
  simp [slotErase, read_erase, h0, h1, h2, h3]

end Sys2Proof.Machine
end

