-- ==== Sys2Proof/Laws/State.lean ====
section
/-! SUPPORT. What each named operation does to each field of the state: one lemma per field, true by
unfolding, so that no later proof unfolds a record update; and what the settings and the slot are. -/

namespace Sys2Proof

/-- Rule R167: two repeats or four. -/
theorem Settings.kRepeat_cases (c : Settings) : c.kRepeat = 2 ∨ c.kRepeat = 4 := by
  unfold Settings.kRepeat
  cases c.repeats
  · exact .inl rfl
  · exact .inr rfl

end Sys2Proof

namespace Sys2Proof.Machine

/-- New settings leave the slot where it is (rule R222). -/
@[simp] theorem slotAddr_settings (c : Cfg) (set : Settings) :
    slotAddr { c with toSettings := set } = slotAddr c := rfl

section lineEvent
variable (v : Bool) (s : State)
@[simp] theorem lineEvent_cfg : (lineEvent v s).cfg = s.cfg := rfl
@[simp] theorem lineEvent_f : (lineEvent v s).f = s.f := rfl
@[simp] theorem lineEvent_fv : (lineEvent v s).fv = s.fv := rfl
@[simp] theorem lineEvent_seq : (lineEvent v s).seq = s.seq := rfl
@[simp] theorem lineEvent_line : (lineEvent v s).line = v := rfl
@[simp] theorem lineEvent_busy : (lineEvent v s).busy = s.busy := rfl
@[simp] theorem lineEvent_fault : (lineEvent v s).fault = s.fault := rfl
@[simp] theorem lineEvent_fcause : (lineEvent v s).fcause = s.fcause := rfl
@[simp] theorem lineEvent_finfo : (lineEvent v s).finfo = s.finfo := rfl
@[simp] theorem lineEvent_addr : (lineEvent v s).addr = s.addr := rfl
@[simp] theorem lineEvent_rc : (lineEvent v s).rc = s.rc := rfl
@[simp] theorem lineEvent_cmd : (lineEvent v s).cmd = s.cmd := rfl
@[simp] theorem lineEvent_nsync : (lineEvent v s).nsync = s.nsync := rfl
@[simp] theorem lineEvent_burst : (lineEvent v s).burst = s.burst := rfl
@[simp] theorem lineEvent_timer : (lineEvent v s).timer = s.timer := rfl
@[simp] theorem lineEvent_nv : (lineEvent v s).nv = s.nv := rfl
@[simp] theorem lineEvent_tr : (lineEvent v s).tr = s.tr ++ [.line v] := rfl
@[simp] theorem lineEvent_inputs : (lineEvent v s).inputs = s.inputs := rfl
@[simp] theorem lineEvent_readDraws : (lineEvent v s).readDraws = s.readDraws := rfl
@[simp] theorem lineEvent_drawCount : (lineEvent v s).drawCount = s.drawCount := rfl
end lineEvent

section waitEvent
variable (n : Nat) (s : State)
@[simp] theorem waitEvent_cfg : (waitEvent n s).cfg = s.cfg := rfl
@[simp] theorem waitEvent_f : (waitEvent n s).f = s.f := rfl
@[simp] theorem waitEvent_fv : (waitEvent n s).fv = s.fv := rfl
@[simp] theorem waitEvent_seq : (waitEvent n s).seq = s.seq := rfl
@[simp] theorem waitEvent_line : (waitEvent n s).line = s.line := rfl
@[simp] theorem waitEvent_busy : (waitEvent n s).busy = s.busy := rfl
@[simp] theorem waitEvent_fault : (waitEvent n s).fault = s.fault := rfl
@[simp] theorem waitEvent_fcause : (waitEvent n s).fcause = s.fcause := rfl
@[simp] theorem waitEvent_finfo : (waitEvent n s).finfo = s.finfo := rfl
@[simp] theorem waitEvent_addr : (waitEvent n s).addr = s.addr := rfl
@[simp] theorem waitEvent_rc : (waitEvent n s).rc = s.rc := rfl
@[simp] theorem waitEvent_cmd : (waitEvent n s).cmd = s.cmd := rfl
@[simp] theorem waitEvent_nsync : (waitEvent n s).nsync = s.nsync := rfl
@[simp] theorem waitEvent_burst : (waitEvent n s).burst = s.burst := rfl
@[simp] theorem waitEvent_timer : (waitEvent n s).timer = BitVec.ofNat 17 n := rfl
@[simp] theorem waitEvent_nv : (waitEvent n s).nv = s.nv := rfl
@[simp] theorem waitEvent_tr : (waitEvent n s).tr = s.tr ++ [.wait n] := rfl
@[simp] theorem waitEvent_inputs : (waitEvent n s).inputs = s.inputs := rfl
@[simp] theorem waitEvent_readDraws : (waitEvent n s).readDraws = s.readDraws := rfl
@[simp] theorem waitEvent_drawCount : (waitEvent n s).drawCount = s.drawCount := rfl
end waitEvent

section memWrite
variable (v : Word) (s : State)
@[simp] theorem memWrite_cfg : (memWrite v s).cfg = s.cfg := rfl
@[simp] theorem memWrite_f : (memWrite v s).f = s.f := rfl
@[simp] theorem memWrite_fv : (memWrite v s).fv = s.fv := rfl
@[simp] theorem memWrite_seq : (memWrite v s).seq = s.seq := rfl
@[simp] theorem memWrite_line : (memWrite v s).line = s.line := rfl
@[simp] theorem memWrite_busy : (memWrite v s).busy = s.busy := rfl
@[simp] theorem memWrite_fault : (memWrite v s).fault = s.fault := rfl
@[simp] theorem memWrite_fcause : (memWrite v s).fcause = s.fcause := rfl
@[simp] theorem memWrite_finfo : (memWrite v s).finfo = s.finfo := rfl
@[simp] theorem memWrite_addr : (memWrite v s).addr = s.addr := rfl
@[simp] theorem memWrite_rc : (memWrite v s).rc = s.rc := rfl
@[simp] theorem memWrite_cmd : (memWrite v s).cmd = s.cmd := rfl
@[simp] theorem memWrite_nsync : (memWrite v s).nsync = s.nsync := rfl
@[simp] theorem memWrite_burst : (memWrite v s).burst = s.burst := rfl
@[simp] theorem memWrite_timer : (memWrite v s).timer = s.timer := rfl
@[simp] theorem memWrite_nv : (memWrite v s).nv = slotWrite s.cfg.nvEndian s.nv (slotAddr s.cfg) v := rfl
@[simp] theorem memWrite_tr : (memWrite v s).tr = s.tr ++ [.nvWrite (slotAddr s.cfg) v] := rfl
@[simp] theorem memWrite_inputs : (memWrite v s).inputs = s.inputs := rfl
@[simp] theorem memWrite_readDraws : (memWrite v s).readDraws = s.readDraws := rfl
@[simp] theorem memWrite_drawCount : (memWrite v s).drawCount = s.drawCount := rfl
end memWrite

section memRead
variable (s : State)
@[simp] theorem memRead_cfg : (memRead s).cfg = s.cfg := rfl
@[simp] theorem memRead_f : (memRead s).f = s.f := rfl
@[simp] theorem memRead_fv : (memRead s).fv = s.fv := rfl
@[simp] theorem memRead_seq : (memRead s).seq = s.seq := rfl
@[simp] theorem memRead_line : (memRead s).line = s.line := rfl
@[simp] theorem memRead_busy : (memRead s).busy = s.busy := rfl
@[simp] theorem memRead_fault : (memRead s).fault = s.fault := rfl
@[simp] theorem memRead_fcause : (memRead s).fcause = s.fcause := rfl
@[simp] theorem memRead_finfo : (memRead s).finfo = s.finfo := rfl
@[simp] theorem memRead_addr : (memRead s).addr = s.addr := rfl
@[simp] theorem memRead_rc : (memRead s).rc = s.rc := rfl
@[simp] theorem memRead_cmd : (memRead s).cmd = s.cmd := rfl
@[simp] theorem memRead_nsync : (memRead s).nsync = s.nsync := rfl
@[simp] theorem memRead_burst : (memRead s).burst = s.burst := rfl
@[simp] theorem memRead_timer : (memRead s).timer = s.timer := rfl
@[simp] theorem memRead_nv : (memRead s).nv = s.nv := rfl
@[simp] theorem memRead_tr : (memRead s).tr = s.tr ++ [.nvRead (slotAddr s.cfg) (memReadValue s)] := rfl
@[simp] theorem memRead_inputs : (memRead s).inputs = s.inputs := rfl
@[simp] theorem memRead_readDraws : (memRead s).readDraws = s.readDraws.tail := rfl
@[simp] theorem memRead_drawCount : (memRead s).drawCount = s.drawCount + 1 := rfl
end memRead

section loadRollingCode
variable (s : State)
@[simp] theorem loadRollingCode_cfg : (loadRollingCode s).cfg = s.cfg := rfl
@[simp] theorem loadRollingCode_f : (loadRollingCode s).f = s.f := rfl
@[simp] theorem loadRollingCode_fv : (loadRollingCode s).fv = s.fv := rfl
@[simp] theorem loadRollingCode_seq : (loadRollingCode s).seq = s.seq := rfl
@[simp] theorem loadRollingCode_line : (loadRollingCode s).line = s.line := rfl
@[simp] theorem loadRollingCode_busy : (loadRollingCode s).busy = s.busy := rfl
@[simp] theorem loadRollingCode_fault : (loadRollingCode s).fault = s.fault := rfl
@[simp] theorem loadRollingCode_fcause : (loadRollingCode s).fcause = s.fcause := rfl
@[simp] theorem loadRollingCode_finfo : (loadRollingCode s).finfo = s.finfo := rfl
@[simp] theorem loadRollingCode_addr : (loadRollingCode s).addr = s.addr := rfl
@[simp] theorem loadRollingCode_rc : (loadRollingCode s).rc = (memReadValue s).getD Config.rcInit := rfl
@[simp] theorem loadRollingCode_cmd : (loadRollingCode s).cmd = s.cmd := rfl
@[simp] theorem loadRollingCode_nsync : (loadRollingCode s).nsync = s.nsync := rfl
@[simp] theorem loadRollingCode_burst : (loadRollingCode s).burst = s.burst := rfl
@[simp] theorem loadRollingCode_timer : (loadRollingCode s).timer = s.timer := rfl
@[simp] theorem loadRollingCode_nv : (loadRollingCode s).nv = s.nv := rfl
@[simp] theorem loadRollingCode_tr : (loadRollingCode s).tr = s.tr ++ [.nvRead (slotAddr s.cfg) (memReadValue s)] := rfl
@[simp] theorem loadRollingCode_inputs : (loadRollingCode s).inputs = s.inputs := rfl
@[simp] theorem loadRollingCode_readDraws : (loadRollingCode s).readDraws = s.readDraws.tail := rfl
@[simp] theorem loadRollingCode_drawCount : (loadRollingCode s).drawCount = s.drawCount + 1 := rfl
end loadRollingCode

section raiseInvalidSyncCount
variable (n : Nibble) (s : State)
@[simp] theorem raiseInvalidSyncCount_cfg : (raiseInvalidSyncCount n s).cfg = s.cfg := rfl
@[simp] theorem raiseInvalidSyncCount_f : (raiseInvalidSyncCount n s).f = s.f := rfl
@[simp] theorem raiseInvalidSyncCount_fv : (raiseInvalidSyncCount n s).fv = s.fv := rfl
@[simp] theorem raiseInvalidSyncCount_seq : (raiseInvalidSyncCount n s).seq = { s.seq with ph := .halt } := rfl
@[simp] theorem raiseInvalidSyncCount_line : (raiseInvalidSyncCount n s).line = s.line := rfl
@[simp] theorem raiseInvalidSyncCount_busy : (raiseInvalidSyncCount n s).busy = false := rfl
@[simp] theorem raiseInvalidSyncCount_fault : (raiseInvalidSyncCount n s).fault = true := rfl
@[simp] theorem raiseInvalidSyncCount_fcause : (raiseInvalidSyncCount n s).fcause = causeInvalidSyncCount := rfl
@[simp] theorem raiseInvalidSyncCount_finfo : (raiseInvalidSyncCount n s).finfo = n := rfl
@[simp] theorem raiseInvalidSyncCount_addr : (raiseInvalidSyncCount n s).addr = s.addr := rfl
@[simp] theorem raiseInvalidSyncCount_rc : (raiseInvalidSyncCount n s).rc = s.rc := rfl
@[simp] theorem raiseInvalidSyncCount_cmd : (raiseInvalidSyncCount n s).cmd = s.cmd := rfl
@[simp] theorem raiseInvalidSyncCount_nsync : (raiseInvalidSyncCount n s).nsync = s.nsync := rfl
@[simp] theorem raiseInvalidSyncCount_burst : (raiseInvalidSyncCount n s).burst = s.burst := rfl
@[simp] theorem raiseInvalidSyncCount_timer : (raiseInvalidSyncCount n s).timer = s.timer := rfl
@[simp] theorem raiseInvalidSyncCount_nv : (raiseInvalidSyncCount n s).nv = s.nv := rfl
@[simp] theorem raiseInvalidSyncCount_tr : (raiseInvalidSyncCount n s).tr = s.tr := rfl
@[simp] theorem raiseInvalidSyncCount_inputs : (raiseInvalidSyncCount n s).inputs = s.inputs := rfl
@[simp] theorem raiseInvalidSyncCount_readDraws : (raiseInvalidSyncCount n s).readDraws = s.readDraws := rfl
@[simp] theorem raiseInvalidSyncCount_drawCount : (raiseInvalidSyncCount n s).drawCount = s.drawCount := rfl
end raiseInvalidSyncCount

section buildFrame
variable (c : CommandCode) (s : State)
@[simp] theorem buildFrame_cfg : (buildFrame c s).cfg = s.cfg := rfl
@[simp] theorem buildFrame_f : (buildFrame c s).f = frameOf s.cfg.keyMode s.addr s.rc c := rfl
@[simp] theorem buildFrame_fv : (buildFrame c s).fv = true := rfl
@[simp] theorem buildFrame_seq : (buildFrame c s).seq = s.seq := rfl
@[simp] theorem buildFrame_line : (buildFrame c s).line = s.line := rfl
@[simp] theorem buildFrame_busy : (buildFrame c s).busy = s.busy := rfl
@[simp] theorem buildFrame_fault : (buildFrame c s).fault = s.fault := rfl
@[simp] theorem buildFrame_fcause : (buildFrame c s).fcause = s.fcause := rfl
@[simp] theorem buildFrame_finfo : (buildFrame c s).finfo = s.finfo := rfl
@[simp] theorem buildFrame_addr : (buildFrame c s).addr = s.addr := rfl
@[simp] theorem buildFrame_rc : (buildFrame c s).rc = s.rc + 1 := rfl
@[simp] theorem buildFrame_cmd : (buildFrame c s).cmd = c.code := rfl
@[simp] theorem buildFrame_nsync : (buildFrame c s).nsync = s.nsync := rfl
@[simp] theorem buildFrame_burst : (buildFrame c s).burst = s.burst := rfl
@[simp] theorem buildFrame_timer : (buildFrame c s).timer = s.timer := rfl
@[simp] theorem buildFrame_nv : (buildFrame c s).nv = slotWrite s.cfg.nvEndian s.nv (slotAddr s.cfg) (s.rc + 1) := rfl
@[simp] theorem buildFrame_tr : (buildFrame c s).tr = s.tr ++ [.nvWrite (slotAddr s.cfg) (s.rc + 1)] := rfl
@[simp] theorem buildFrame_inputs : (buildFrame c s).inputs = s.inputs := rfl
@[simp] theorem buildFrame_readDraws : (buildFrame c s).readDraws = s.readDraws := rfl
@[simp] theorem buildFrame_drawCount : (buildFrame c s).drawCount = s.drawCount := rfl
end buildFrame

section startBurst
variable (c : CommandCode) (s : State)
@[simp] theorem startBurst_cfg : (startBurst c s).cfg = s.cfg := rfl
@[simp] theorem startBurst_f : (startBurst c s).f = frameOf s.cfg.keyMode s.addr s.rc c := rfl
@[simp] theorem startBurst_fv : (startBurst c s).fv = true := rfl
@[simp] theorem startBurst_seq : (startBurst c s).seq = { s.seq with ph := .wake, half := false, frm := 0 } := rfl
@[simp] theorem startBurst_line : (startBurst c s).line = s.line := rfl
@[simp] theorem startBurst_busy : (startBurst c s).busy = true := rfl
@[simp] theorem startBurst_fault : (startBurst c s).fault = s.fault := rfl
@[simp] theorem startBurst_fcause : (startBurst c s).fcause = s.fcause := rfl
@[simp] theorem startBurst_finfo : (startBurst c s).finfo = s.finfo := rfl
@[simp] theorem startBurst_addr : (startBurst c s).addr = s.addr := rfl
@[simp] theorem startBurst_rc : (startBurst c s).rc = s.rc + 1 := rfl
@[simp] theorem startBurst_cmd : (startBurst c s).cmd = c.code := rfl
@[simp] theorem startBurst_nsync : (startBurst c s).nsync = Config.nSyncFirst := rfl
@[simp] theorem startBurst_burst : (startBurst c s).burst = true := rfl
@[simp] theorem startBurst_timer : (startBurst c s).timer = s.timer := rfl
@[simp] theorem startBurst_nv : (startBurst c s).nv = slotWrite s.cfg.nvEndian s.nv (slotAddr s.cfg) (s.rc + 1) := rfl
@[simp] theorem startBurst_tr : (startBurst c s).tr = s.tr ++ [.nvWrite (slotAddr s.cfg) (s.rc + 1)] := rfl
@[simp] theorem startBurst_inputs : (startBurst c s).inputs = s.inputs := rfl
@[simp] theorem startBurst_readDraws : (startBurst c s).readDraws = s.readDraws := rfl
@[simp] theorem startBurst_drawCount : (startBurst c s).drawCount = s.drawCount := rfl
end startBurst

section emit
variable (g : Segment) (s : State)
@[simp] theorem emit_cfg : (emit g s).cfg = s.cfg := rfl
@[simp] theorem emit_f : (emit g s).f = s.f := rfl
@[simp] theorem emit_fv : (emit g s).fv = s.fv := rfl
@[simp] theorem emit_seq : (emit g s).seq = s.seq := rfl
@[simp] theorem emit_line : (emit g s).line = g.1 := rfl
@[simp] theorem emit_busy : (emit g s).busy = s.busy := rfl
@[simp] theorem emit_fault : (emit g s).fault = s.fault := rfl
@[simp] theorem emit_fcause : (emit g s).fcause = s.fcause := rfl
@[simp] theorem emit_finfo : (emit g s).finfo = s.finfo := rfl
@[simp] theorem emit_addr : (emit g s).addr = s.addr := rfl
@[simp] theorem emit_rc : (emit g s).rc = s.rc := rfl
@[simp] theorem emit_cmd : (emit g s).cmd = s.cmd := rfl
@[simp] theorem emit_nsync : (emit g s).nsync = s.nsync := rfl
@[simp] theorem emit_burst : (emit g s).burst = s.burst := rfl
@[simp] theorem emit_timer : (emit g s).timer = BitVec.ofNat 17 g.2 := rfl
@[simp] theorem emit_nv : (emit g s).nv = s.nv := rfl
@[simp] theorem emit_tr : (emit g s).tr = s.tr ++ [.line g.1, .wait g.2] := by simp [emit]
@[simp] theorem emit_inputs : (emit g s).inputs = s.inputs := rfl
@[simp] theorem emit_readDraws : (emit g s).readDraws = s.readDraws := rfl
@[simp] theorem emit_drawCount : (emit g s).drawCount = s.drawCount := rfl
end emit

/-! `moveOn` writes `SEQ` and `NSYNC` and nothing else (rule R141). -/

section moveOn
variable (s : State)
@[simp] theorem moveOn_cfg : (moveOn s).cfg = s.cfg := by unfold moveOn; (repeat' split) <;> rfl
@[simp] theorem moveOn_f : (moveOn s).f = s.f := by unfold moveOn; (repeat' split) <;> rfl
@[simp] theorem moveOn_fv : (moveOn s).fv = s.fv := by unfold moveOn; (repeat' split) <;> rfl
@[simp] theorem moveOn_line : (moveOn s).line = s.line := by unfold moveOn; (repeat' split) <;> rfl
@[simp] theorem moveOn_busy : (moveOn s).busy = s.busy := by unfold moveOn; (repeat' split) <;> rfl
@[simp] theorem moveOn_fault : (moveOn s).fault = s.fault := by unfold moveOn; (repeat' split) <;> rfl
@[simp] theorem moveOn_fcause : (moveOn s).fcause = s.fcause := by unfold moveOn; (repeat' split) <;> rfl
@[simp] theorem moveOn_finfo : (moveOn s).finfo = s.finfo := by unfold moveOn; (repeat' split) <;> rfl
@[simp] theorem moveOn_addr : (moveOn s).addr = s.addr := by unfold moveOn; (repeat' split) <;> rfl
@[simp] theorem moveOn_rc : (moveOn s).rc = s.rc := by unfold moveOn; (repeat' split) <;> rfl
@[simp] theorem moveOn_cmd : (moveOn s).cmd = s.cmd := by unfold moveOn; (repeat' split) <;> rfl
@[simp] theorem moveOn_burst : (moveOn s).burst = s.burst := by unfold moveOn; (repeat' split) <;> rfl
@[simp] theorem moveOn_timer : (moveOn s).timer = s.timer := by unfold moveOn; (repeat' split) <;> rfl
@[simp] theorem moveOn_nv : (moveOn s).nv = s.nv := by unfold moveOn; (repeat' split) <;> rfl
@[simp] theorem moveOn_tr : (moveOn s).tr = s.tr := by unfold moveOn; (repeat' split) <;> rfl
@[simp] theorem moveOn_inputs : (moveOn s).inputs = s.inputs := by unfold moveOn; (repeat' split) <;> rfl
@[simp] theorem moveOn_readDraws : (moveOn s).readDraws = s.readDraws := by unfold moveOn; (repeat' split) <;> rfl
@[simp] theorem moveOn_drawCount : (moveOn s).drawCount = s.drawCount := by unfold moveOn; (repeat' split) <;> rfl
end moveOn

end Sys2Proof.Machine
end

