-- ==== Sys2Proof/Laws/Ops.lean ====
section
/-! SUPPORT. For each shared operation, once, everything it can do; the provers cite these instead of
unfolding the operation. -/

namespace Sys2Proof.Machine

variable {s t : State}

/-! ### Admission -/

@[simp] theorem whenIdle_idle {go : Host.Outcome State Fault Refusal} (hf : s.fault = false)
    (hb : s.busy = false) : whenIdle s go = go := by simp [whenIdle, hf, hb]

theorem whenIdle_faulted {go : Host.Outcome State Fault Refusal} (hf : s.fault = true) :
    whenIdle s go = .refused .faulted := by simp [whenIdle, hf]

theorem whenIdle_busy {go : Host.Outcome State Fault Refusal} (hf : s.fault = false)
    (hb : s.busy = true) : whenIdle s go = .refused .busy := by simp [whenIdle, hf, hb]

/-- An admitted operation answered: the block was unfaulted and idle. -/
theorem whenIdle_next {go : Host.Outcome State Fault Refusal} (h : whenIdle s go = .next t) :
    s.fault = false ∧ s.busy = false ∧ go = .next t := by
  unfold whenIdle at h
  cases hf : s.fault <;> cases hb : s.busy <;> simp_all

/-! ### The slot -/

theorem slotOf_memWrite (v : Word) (s : State) : slotOf (memWrite v s) = some v := by simp [slotOf]

theorem slotOf_buildFrame (c : CommandCode) (s : State) : slotOf (buildFrame c s) = some (s.rc + 1) := by
  simp [slotOf]

theorem slotOf_loadRollingCode (s : State) : slotOf (loadRollingCode s) = slotOf s := by simp [slotOf]

/-- A read gives the slot's value or none (rule R43). -/
theorem memReadValue_cases (s : State) :
    memReadValue s = none ∨ ∃ v, slotOf s = some v ∧ memReadValue s = some v := by
  unfold memReadValue
  cases slotOf s <;> cases readFails s <;> simp

/-! ### The operations -/

/-- What BUILD can do. -/
theorem buildOp_next {c : CommandCode} (h : buildOp c s = .next t) :
    s.fault = false ∧ s.busy = false ∧ t = buildFrame c s := by
  obtain ⟨hf, hb, h⟩ := whenIdle_next h
  exact ⟨hf, hb, by simpa using h.symm⟩

/-- What MOVE can do at its acceptance. -/
theorem moveOp_next {c : CommandCode} (h : moveOp c s = .next t) :
    s.fault = false ∧ s.busy = false ∧ t = startBurst c s := by
  obtain ⟨hf, hb, h⟩ := whenIdle_next h
  exact ⟨hf, hb, by simpa using h.symm⟩

/-- The state an accepted TX enters (rules R130, R141). -/
def startFrame (n : Nibble) (s : State) : State :=
  { s with
    nsync := n, burst := false, busy := true
    seq := if n = Config.nSyncFirst then { s.seq with ph := .wake, half := false, frm := 0 }
      else { s.seq with ph := .hwsync, half := false, cnt := 0, frm := 0 } }

/-- What TX can do: raise the exception, or be accepted. -/
theorem txOp_next {n : Nibble} (h : txOp n s = .next t) :
    s.fault = false ∧ s.busy = false ∧
      ((validSyncCount n = false ∧ t = raiseInvalidSyncCount n s) ∨
        (validSyncCount n = true ∧ s.fv = true ∧ t = startFrame n s)) := by
  obtain ⟨hf, hb, h⟩ := whenIdle_next h
  refine ⟨hf, hb, ?_⟩
  cases hn : validSyncCount n
  · simp only [hn, if_true, Host.Outcome.next.injEq] at h
    exact .inl ⟨rfl, h.symm⟩
  · cases hv : s.fv
    · simp [hn, hv] at h
    · refine .inr ⟨rfl, rfl, ?_⟩
      simp only [hn, hv, Bool.true_eq_false, if_false] at h
      split at h <;> simp only [Host.Outcome.next.injEq] at h <;> simp [startFrame, ← h, *]

/-- TX never answers a fault outcome. -/
theorem txOp_ne_fault (n : Nibble) (s : State) (r : Fault) : txOp n s ≠ .fault r := by
  unfold txOp whenIdle
  (repeat' split) <;> simp

/-- TX with a valid count and a frame, on an idle block, is accepted. -/
theorem txOp_accept {n : Nibble} (hf : s.fault = false) (hb : s.busy = false) (hn : validSyncCount n = true)
    (hv : s.fv = true) : txOp n s = .next (startFrame n s) := by
  unfold txOp
  rw [whenIdle_idle hf hb]
  by_cases h : n = Config.nSyncFirst <;> simp_all [startFrame]

/-- What an operation can be when it answers a next state, and that state. -/
inductive ExecCase (i : Instr) (s t : State) : Prop
  | moves (c : CommandCode) (hi : i = moveInstr c) (hr : Ready s) (ht : t = startBurst c s)
  | builds (c : CommandCode) (hi : i = buildInstr c) (hr : Ready s) (ht : t = buildFrame c s)
  | raises (n : Nibble) (hi : i = .txInvalid n) (hr : Ready s) (hn : validSyncCount n = false)
      (ht : t = raiseInvalidSyncCount n s)
  | transmits (n : Nibble)
      (hi : (i = .txFirst ∧ n = Config.nSyncFirst) ∨ (i = .txRepeat ∧ n = Config.nSyncRepeat) ∨ i = .txInvalid n)
      (hr : Ready s) (hn : validSyncCount n = true) (hv : s.fv = true) (ht : t = startFrame n s)
  | loads (hi : i = .load) (hr : Ready s) (ht : t = loadRollingCode s)
  | saves (hi : i = .save) (hr : Ready s) (ht : t = memWrite s.rc s)
  | sends (b : Bool) (hi : i = decodeSym b) (ht : t = manSymbol b s)

/-- Every next state an operation can give is one of these effects. -/
theorem exec_cases {i : Instr} (h : exec i s = .next t) : ExecCase i s t := by
  have move : ∀ c, i = moveInstr c → moveOp c s = .next t → ExecCase i s t := by
    intro c hi h
    obtain ⟨hf, hb, ht⟩ := moveOp_next h
    exact .moves c hi ⟨hf, hb⟩ ht
  have build : ∀ c, i = buildInstr c → buildOp c s = .next t → ExecCase i s t := by
    intro c hi h
    obtain ⟨hf, hb, ht⟩ := buildOp_next h
    exact .builds c hi ⟨hf, hb⟩ ht
  have tx : ∀ n, (i = .txFirst ∧ n = Config.nSyncFirst) ∨ (i = .txRepeat ∧ n = Config.nSyncRepeat) ∨
      i = .txInvalid n → txOp n s = .next t → ExecCase i s t := by
    intro n hi h
    obtain ⟨hf, hb, ⟨hn, ht⟩ | ⟨hn, hv, ht⟩⟩ := txOp_next h
    · rcases hi with ⟨-, rfl⟩ | ⟨-, rfl⟩ | hi
      · simp [validSyncCount] at hn
      · simp [validSyncCount] at hn
      · exact .raises n hi ⟨hf, hb⟩ hn ht
    · exact .transmits n hi ⟨hf, hb⟩ hn hv ht
  cases i with
  | moveMy => exact move .my rfl h
  | moveUp => exact move .up rfl h
  | moveDown => exact move .down rfl h
  | moveProgram => exact move .program rfl h
  | buildMy => exact build .my rfl h
  | buildUp => exact build .up rfl h
  | buildDown => exact build .down rfl h
  | buildProgram => exact build .program rfl h
  | txFirst => exact tx _ (.inl ⟨rfl, rfl⟩) h
  | txRepeat => exact tx _ (.inr (.inl ⟨rfl, rfl⟩)) h
  | txInvalid n => exact tx n (.inr (.inr rfl)) h
  | load =>
    obtain ⟨hf, hb, h⟩ := whenIdle_next h
    exact .loads rfl ⟨hf, hb⟩ (by simpa using h.symm)
  | save =>
    obtain ⟨hf, hb, h⟩ := whenIdle_next h
    exact .saves rfl ⟨hf, hb⟩ (by simpa using h.symm)
  | man0 => exact .sends false rfl (by simpa [exec, execMan0] using h.symm)
  | man1 => exact .sends true rfl (by simpa [exec, execMan1] using h.symm)

/-- No operation answers a fault outcome. -/
theorem exec_ne_fault (i : Instr) (s : State) (r : Fault) : exec i s ≠ .fault r := by
  cases i <;> simp only [exec, execMoveMy, execMoveUp, execMoveDown, execMoveProgram, execBuildMy, execBuildUp,
    execBuildDown, execBuildProgram, execTxFirst, execTxRepeat, execTxInvalid, execLoad, execSave, execMan0,
    execMan1, moveOp, buildOp] <;>
    first
      | exact txOp_ne_fault _ _ _
      | (unfold whenIdle; (repeat' split) <;> simp)
      | simp

/-- The decoder never reads a symbol of the data phase from an operation word. -/
theorem decode_ne_sym {w : Byte} {i : Instr} (h : decode w = .ok i) (b : Bool) : i ≠ decodeSym b := by
  rintro rfl
  revert b w
  decide

/-- A sync count the decoder reads as invalid is not 2 or 7. -/
theorem decode_txInvalid {w : Byte} {n : Nibble} (h : decode w = .ok (.txInvalid n)) :
    validSyncCount n = false := by
  revert w n
  decide

/-- Presenting a word answered a next state: it decoded, and the operation answered it. -/
theorem present_next {w : Byte} (h : present w s = .next t) :
    s.fault = false ∧ s.busy = false ∧ ∃ i, decode w = .ok i ∧ exec i s = .next t := by
  obtain ⟨hf, hb, h⟩ := whenIdle_next h
  split at h
  · simp at h
  · exact ⟨hf, hb, _, ‹_›, h⟩

theorem present_ne_fault (w : Byte) (s : State) (r : Fault) : present w s ≠ .fault r := by
  unfold present whenIdle
  (repeat' split) <;> first | exact exec_ne_fault _ _ _ | simp

/-- A word that decodes, on an idle and unfaulted block, is performed. -/
theorem present_ok {w : Byte} {i : Instr} (hf : s.fault = false) (hb : s.busy = false)
    (hd : decode w = .ok i) : present w s = exec i s := by
  simp [present, whenIdle_idle hf hb, hd]

/-! ### Reset -/

section reset
variable (fate : StoreFate) (set : Settings) (s : State)

@[simp] theorem resetBlock_cfg : (resetBlock fate set s).cfg = { s.cfg with toSettings := set } := rfl
@[simp] theorem resetBlock_f : (resetBlock fate set s).f = Config.unwrittenFrame s.drawCount := rfl
@[simp] theorem resetBlock_fv : (resetBlock fate set s).fv = false := rfl
@[simp] theorem resetBlock_seq : (resetBlock fate set s).seq = State.reset.seq := rfl
@[simp] theorem resetBlock_line : (resetBlock fate set s).line = false := rfl
@[simp] theorem resetBlock_busy : (resetBlock fate set s).busy = false := rfl
@[simp] theorem resetBlock_fault : (resetBlock fate set s).fault = false := rfl
@[simp] theorem resetBlock_fcause : (resetBlock fate set s).fcause = 0 := rfl
@[simp] theorem resetBlock_finfo : (resetBlock fate set s).finfo = 0 := rfl
@[simp] theorem resetBlock_addr : (resetBlock fate set s).addr = set.addrCfg := rfl
@[simp] theorem resetBlock_cmd : (resetBlock fate set s).cmd = 0 := rfl
@[simp] theorem resetBlock_nsync : (resetBlock fate set s).nsync = 0 := rfl
@[simp] theorem resetBlock_burst : (resetBlock fate set s).burst = false := rfl
@[simp] theorem resetBlock_timer : (resetBlock fate set s).timer = 0 := rfl
@[simp] theorem resetBlock_nv : (resetBlock fate set s).nv = storeAfter fate s.cfg s.nv := rfl
@[simp] theorem resetBlock_inputs : (resetBlock fate set s).inputs = s.inputs := rfl
@[simp] theorem resetBlock_readDraws : (resetBlock fate set s).readDraws = s.readDraws.tail := rfl

/-- The slot after a reset: as it was, or lost, whatever the settings (rules R53, R222). -/
theorem slotOf_resetBlock : slotOf (resetBlock fate set s) =
    slotRead s.cfg.nvEndian (storeAfter fate s.cfg s.nv) (slotAddr s.cfg) := rfl

/-- The load of a reset (rule R212): the read, its event, and the rolling code it leaves. -/
theorem resetBlock_load : ∃ r : Option Word,
    (r = none ∨ slotRead s.cfg.nvEndian (storeAfter fate s.cfg s.nv) (slotAddr s.cfg) = r) ∧
      (resetBlock fate set s).tr = [.nvRead (slotAddr s.cfg) r] ∧
      (resetBlock fate set s).rc = r.getD Config.rcInit := by
  let z := resetRegisters set { s with nv := storeAfter fate s.cfg s.nv }
  refine ⟨memReadValue z, ?_, rfl, rfl⟩
  rcases memReadValue_cases z with h | ⟨v, hs, h⟩
  · exact .inl h
  · exact .inr (h ▸ hs)

end reset

/-- `State.reset` is the reset of a block whose store was never written. -/
theorem reset_is_power_up :
    State.reset = resetBlock .kept Cfg.ref.toSettings { State.reset with drawCount := 0 } := rfl

end Sys2Proof.Machine
end

