-- ==== Sys2Proof/Laws/Sequencer.lean ====
section
/-! SUPPORT. The sequencer: what a step of the transmitter can do, the bits it fetches, and runs of the
machine that no input disturbs. -/

namespace Sys2Proof.Machine

variable {s t : State}

/-! ### Bit fetch -/

@[simp] theorem dataBits_length (f : Frame) : (dataBits f).length = 56 := rfl

/-- Rule R123 and rule R47 say the same: the i-th bit fetched is the i-th of the 56 bits in wire order. -/
theorem dataBit_eq_getElem? (f : Frame) {i : Nat} (h : i < 56) : dataBit f i = (dataBits f)[i]? := by
  interval_cases i <;> rfl

/-- There is a bit to fetch at every index up to 55, and none after it. -/
theorem dataBit_isSome (f : Frame) (i : Nat) : (dataBit f i).isSome = true ↔ i ≤ 55 := by
  have hl : (frameBytes f).length = 7 := rfl
  rw [dataBit, Option.isSome_map, Option.isSome_iff_ne_none, Ne, List.getElem?_eq_none_iff, hl]
  omega

/-! ### Steps of the transmitter -/

/-- What a step of the transmitter can do (rule R141). -/
theorem advance_next (h : advance s = .next t) :
    (s.seq.ph = .idle ∧ t = { s with timer := 0, busy := false }) ∨ (s.seq.ph = .halt ∧ t = s) ∨
      (s.seq.ph.sending = true ∧ ∃ g, dueSegment s = some g ∧ t = moveOn (emit g s)) := by
  unfold advance at h
  split at h
  · exact .inl ⟨‹_›, by simpa using h.symm⟩
  · exact .inr (.inl ⟨‹_›, by simpa using h.symm⟩)
  all_goals
    rename_i hp
    refine .inr (.inr ⟨by rw [hp]; rfl, ?_⟩)
    split at h
    · exact ⟨_, ‹_›, by simpa using h.symm⟩
    · simp at h

/-- A step of the transmitter while a frame is in progress. -/
theorem advance_sending {g : Segment} (hp : s.seq.ph.sending = true) (hg : dueSegment s = some g) :
    advance s = .next (moveOn (emit g s)) := by
  unfold advance
  split <;> simp_all [Phase.sending]

/-- The due segment exists in every phase of a frame in progress, for every bit index in range. -/
theorem dueSegment_isSome (hp : s.seq.ph.sending = true) (hb : s.seq.bit.toNat ≤ 55) :
    ∃ g, dueSegment s = some g := by
  obtain ⟨b, hd⟩ := Option.isSome_iff_exists.1 ((dataBit_isSome s.f s.seq.bit.toNat).2 hb)
  unfold dueSegment
  split <;> simp_all [Phase.sending]

/-- A refused outcome never comes from the transmitter. -/
theorem advance_ne_refused (r : Refusal) : advance s ≠ .refused r := by
  unfold advance
  (repeat' split) <;> simp

/-! ### Steps and runs of the machine -/

/-- While the block is busy and the next input waits, a step is a step of the transmitter. -/
theorem step_busy (hb : s.busy = true) (hp : Patient s) : step s = advance s := by
  unfold step
  split
  · simp [proceed, hb]
  · rename_i i rest hi
    have := hp i (by simp [hi])
    cases i <;> simp_all [takeInput, waitsForIdle, proceed]

@[simp] theorem run_zero (s : State) : run 0 s = .next s := rfl

theorem run_succ_next (k : Nat) (h : step s = .next t) : run (k + 1) s = run k t := by
  rw [run, h]

theorem run_one (h : step s = .next t) : run 1 s = .next t := run_succ_next 0 h

theorem run_two {u : State} (hs : step s = .next t) (ht : step t = .next u) : run 2 s = .next u := by
  rw [run_succ_next 1 hs, run_one ht]

/-- Runs compose. -/
theorem run_add (j k : Nat) (h : run j s = .next t) : run (j + k) s = run k t := by
  induction j generalizing s with
  | zero => cases h; rw [Nat.zero_add]
  | succ j ih =>
    rw [Nat.succ_add, run]
    rw [run] at h
    split at h
    · exact ih h
    · simp at h
    · simp at h

theorem run_trans {u : State} {j k n : Nat} (hn : n = j + k) (hs : run j s = .next t)
    (ht : run k t = .next u) : run n s = .next u := by
  rw [hn, run_add j k hs, ht]

/-- A run of this machine is the host's run of `Sys2Proof.core`. -/
theorem run_eq_core (k : Nat) (s : State) : run k s = Host.Core.run Sys2Proof.core k s := by
  induction k generalizing s with
  | zero => rfl
  | succ k ih =>
    have unfolded : Host.Core.run Sys2Proof.core (k + 1) s = _ := Host.Core.run.eq_2 _ _ _
    have core_step : Sys2Proof.core.step s = step s := rfl
    rw [unfolded, run]
    cases h : step s with
    | next t => rw [core_step.trans h]; exact ih t
    | fault r => rw [core_step.trans h]; rfl
    | refused r => rw [core_step.trans h]; rfl

/-! ### Traces -/

@[simp] theorem traceOf_nil : traceOf [] = [] := rfl

@[simp] theorem traceOf_cons (g : Segment) (gs : List Segment) :
    traceOf (g :: gs) = .line g.1 :: .wait g.2 :: traceOf gs := rfl

@[simp] theorem traceOf_append (gs hs : List Segment) : traceOf (gs ++ hs) = traceOf gs ++ traceOf hs := by
  simp [traceOf]

/-- A trace of segments is read back as the segments. -/
@[simp] theorem segmentsOf_traceOf (gs : List Segment) : segmentsOf (traceOf gs) = gs := by
  induction gs with
  | nil => rfl
  | cons g gs ih => simp [segmentsOf, ih]

end Sys2Proof.Machine
end

