-- ==== Sys2Proof/Laws/Step.lean ====
section
/-! SUPPORT. What one step of the machine can do, said once: the case analysis every claim about all steps
starts from, and what a step of the transmitter leaves alone. -/

namespace Sys2Proof.Machine

variable {s t : State}

/-- The five kinds of step. -/
inductive StepCase (s t : State) : Prop
  /-- the block is not busy, and nothing but an elapsed microsecond was given to it -/
  | rests (rest : List Input) (hb : s.busy = false)
      (hi : (s.inputs = [] ∧ rest = []) ∨ s.inputs = .tick :: rest) (ht : t = { s with inputs := rest })
  /-- the transmitter goes on -/
  | advances (rest : List Input) (hb : s.busy = true)
      (hi : (Patient s ∧ rest = s.inputs) ∨ s.inputs = .tick :: rest)
      (h : advance { s with inputs := rest } = .next t)
  /-- one microsecond of a wait passes -/
  | elapses (rest : List Input) (hb : s.busy = true) (hi : s.inputs = .tick :: rest) (hn : s.timer ≠ 0)
      (ht : t = { s with timer := s.timer - 1, inputs := rest })
  /-- a word on the request port is performed -/
  | performs (w : Byte) (i : Instr) (a : Input) (rest : List Input) (hr : Ready s)
      (hi : s.inputs = a :: rest)
      (ha : a = .opw w ∨ a = .opwNow w ∨ ∃ text, a = .moveName text ∧ w = moveWord text)
      (hd : decode w = .ok i) (h : exec i { s with inputs := rest } = .next t)
  /-- the block is reset -/
  | resets (fate : StoreFate) (set : Settings) (rest : List Input) (hi : s.inputs = .reset fate set :: rest)
      (ht : t = resetBlock fate set { s with inputs := rest })

/-- Every step that answers a next state is of one of the five kinds. -/
theorem step_cases (h : step s = .next t) : StepCase s t := by
  have performing : ∀ w a rest, s.inputs = a :: rest →
      (a = .opw w ∨ a = .opwNow w ∨ ∃ text, a = .moveName text ∧ w = moveWord text) →
      present w { s with inputs := rest } = .next t → StepCase s t := by
    intro w a rest hi ha h
    obtain ⟨hf, hb, i, hd, he⟩ := present_next h
    exact .performs w i a rest ⟨hf, hb⟩ hi ha hd he
  have waiting : ∀ w a rest, s.inputs = a :: rest → waitsForIdle a = true →
      (a = .opw w ∨ a = .opwNow w ∨ ∃ text, a = .moveName text ∧ w = moveWord text) →
      (if s.busy then proceed s else present w { s with inputs := rest }) = .next t → StepCase s t := by
    intro w a rest hi hw ha h
    split at h
    · rename_i hb
      simp only [proceed, hb, if_true] at h
      exact .advances s.inputs hb (.inl ⟨by simp [Patient, hi, hw], rfl⟩) h
    · exact performing _ _ _ hi ha h
  unfold step at h
  split at h
  · rename_i hi
    unfold proceed at h
    split at h
    · exact .advances s.inputs ‹_› (.inl ⟨by simp [Patient, hi], rfl⟩) h
    · rename_i hb
      obtain rfl : s = t := by simpa using h
      exact .rests [] (Bool.eq_false_iff.2 hb) (.inl ⟨hi, rfl⟩) (by rw [← hi])
  · rename_i a rest hi
    cases a with
    | opw w => exact waiting w _ _ hi rfl (.inl rfl) h
    | moveName text => exact waiting (moveWord text) _ _ hi rfl (.inr (.inr ⟨_, rfl, rfl⟩)) h
    | opwNow w => exact performing _ _ _ hi (.inr (.inl rfl)) h
    | tick =>
      simp only [takeInput] at h
      split at h
      · unfold tickOnce at h
        split at h
        · exact .advances rest ‹_› (.inr hi) h
        · exact .elapses rest ‹_› hi ‹_› (by simpa using h.symm)
      · rename_i hb
        exact .rests rest (Bool.eq_false_iff.2 hb) (.inr hi) (by simpa using h.symm)
    | reset fate set => exact .resets fate set rest hi (by simpa [takeInput] using h.symm)

/-- The fields a step of the transmitter never writes, and the trace it adds to. -/
structure SameRecord (s t : State) : Prop where
  cfg : t.cfg = s.cfg
  f : t.f = s.f
  fv : t.fv = s.fv
  fault : t.fault = s.fault
  fcause : t.fcause = s.fcause
  finfo : t.finfo = s.finfo
  addr : t.addr = s.addr
  rc : t.rc = s.rc
  cmd : t.cmd = s.cmd
  burst : t.burst = s.burst
  nv : t.nv = s.nv
  inputs : t.inputs = s.inputs
  readDraws : t.readDraws = s.readDraws
  drawCount : t.drawCount = s.drawCount
  tr : ∃ gs, t.tr = s.tr ++ traceOf gs

theorem advance_sameRecord (h : advance s = .next t) : SameRecord s t := by
  rcases advance_next h with ⟨-, rfl⟩ | ⟨-, rfl⟩ | ⟨-, g, -, rfl⟩
  · constructor <;> first | rfl | exact ⟨[], by simp⟩
  · constructor <;> first | rfl | exact ⟨[], by simp⟩
  · constructor <;> first | (simp; done) | exact ⟨[g], by simp⟩

/-- A step of the transmitter while the block is busy, a next input waits, and a frame is in progress. -/
theorem step_sending {g : Segment} (hb : s.busy = true) (hp : Patient s) (hs : s.seq.ph.sending = true)
    (hg : dueSegment s = some g) : step s = .next (moveOn (emit g s)) := by
  rw [step_busy hb hp, advance_sending hs hg]

/-- What the read of a slot can give (rule R43), with and without a scripted draw. -/
theorem memReadValue_drawn (s : State) :
    (memReadValue s = none ∨ memReadValue s = slotOf s) ∧
    (s.readDraws.head? = some false → memReadValue s = slotOf s) ∧
    (s.readDraws.head? = some true → memReadValue s = none) := by
  unfold memReadValue readFails
  refine ⟨?_, fun h => ?_, fun h => ?_⟩
  · cases slotOf s <;> simp
  · cases hd : s.readDraws <;> simp_all
    cases slotOf s <;> simp
  · cases hd : s.readDraws <;> simp_all
    cases slotOf s <;> simp

end Sys2Proof.Machine
end

