-- ==== Sys2Proof/Laws/Frames.lean ====
section
/-! SUPPORT. Runs of the transmitter, phase by phase, of a busy block that no input disturbs: each phase of a
frame, a whole frame, and the repeats of a burst. Callers cite these instead of walking the sequencer. -/

namespace Sys2Proof.Machine

/-- A state with the fields a segment writes set: the sequencer's position, the line, the timer, the trace. -/
def placed (s : State) (q : Seq) (l : Bool) (tm : BitVec 17) (tr : List Event) : State :=
  { s with seq := q, line := l, timer := tm, tr := tr }

/-- A frame that was the last: the block idle, with the counts the sequencer leaves. -/
def finished (s : State) (n : Nat) (frm : BitVec 3) (tr : List Event) : State :=
  { s with
    seq := ⟨.idle, false, BitVec.ofNat 3 n, 55, frm⟩, line := false, timer := 0, busy := false, tr := tr }

variable {s : State}

theorem emit_placed (g : Segment) (q : Seq) (l : Bool) (tm : BitVec 17) (tr : List Event) :
    emit g (placed s q l tm tr) = placed s q g.1 (BitVec.ofNat 17 g.2) (tr ++ traceOf [g]) := by
  simp [emit, waitEvent, lineEvent, placed]

/-- One segment. -/
theorem step_placed (hb : s.busy = true) (hp : Patient s) {q : Seq} {l : Bool} {tm : BitVec 17}
    {tr : List Event} {g : Segment} (hs : q.ph.sending = true)
    (hg : dueSegment (placed s q l tm tr) = some g) :
    step (placed s q l tm tr) =
      .next (moveOn (placed s q g.1 (BitVec.ofNat 17 g.2) (tr ++ traceOf [g]))) := by
  rw [step_sending (s := placed s q l tm tr) hb hp hs hg, emit_placed]

/-- Two segments, the two halves of a pair. -/
theorem run_pair (hb : s.busy = true) (hp : Patient s) {q q1 q2 : Seq} {g1 g2 : Segment}
    (h1 : q.ph.sending = true) (h2 : q1.ph.sending = true)
    (d1 : ∀ l tm tr, dueSegment (placed s q l tm tr) = some g1)
    (d2 : ∀ l tm tr, dueSegment (placed s q1 l tm tr) = some g2)
    (m1 : ∀ l tm tr, moveOn (placed s q l tm tr) = placed s q1 l tm tr)
    (m2 : ∀ l tm tr, moveOn (placed s q1 l tm tr) = placed s q2 l tm tr)
    (l : Bool) (tm : BitVec 17) (tr : List Event) :
    run 2 (placed s q l tm tr) =
      .next (placed s q2 g2.1 (BitVec.ofNat 17 g2.2) (tr ++ traceOf [g1, g2])) := by
  have e1 := step_placed hb hp h1 (d1 l tm tr)
  rw [m1] at e1
  have e2 := step_placed hb hp h2 (d2 g1.1 (BitVec.ofNat 17 g1.2) (tr ++ traceOf [g1]))
  rw [m2] at e2
  rw [run_two e1 e2]
  simp

/-- Rule R132 -/
theorem run_wake (hb : s.busy = true) (hp : Patient s) (c : BitVec 3) (bit : BitVec 6) (frm : BitVec 3)
    (l : Bool) (tm : BitVec 17) (tr : List Event) :
    ∃ l' tm', run 2 (placed s ⟨.wake, false, c, bit, frm⟩ l tm tr) =
      .next (placed s ⟨.hwsync, false, 0, bit, frm⟩ l' tm' (tr ++ traceOf (wakeSegs s.cfg))) :=
  ⟨_, _, run_pair hb hp (q1 := ⟨.wake, true, c, bit, frm⟩) rfl rfl (fun _ _ _ => rfl) (fun _ _ _ => rfl)
    (fun _ _ _ => rfl) (fun _ _ _ => rfl) l tm tr⟩

/-- Rule R134 -/
theorem run_swsync (hb : s.busy = true) (hp : Patient s) (c : BitVec 3) (bit : BitVec 6) (frm : BitVec 3)
    (l : Bool) (tm : BitVec 17) (tr : List Event) :
    ∃ l' tm', run 2 (placed s ⟨.swsync, false, c, bit, frm⟩ l tm tr) =
      .next (placed s ⟨.data, false, c, 0, frm⟩ l' tm' (tr ++ traceOf (swsyncSegs s.cfg))) :=
  ⟨_, _, run_pair hb hp (q1 := ⟨.swsync, true, c, bit, frm⟩) rfl rfl (fun _ _ _ => rfl) (fun _ _ _ => rfl)
    (fun _ _ _ => rfl) (fun _ _ _ => rfl) l tm tr⟩

/-- Rule R133: the pulse pairs left, at least one. -/
theorem run_hwsync (hb : s.busy = true) (hp : Patient s) (h7 : s.nsync.toNat ≤ 7) (m : Nat) (c : BitVec 3)
    (bit : BitVec 6) (frm : BitVec 3) (l : Bool) (tm : BitVec 17) (tr : List Event)
    (hc : c.toNat + (m + 1) = s.nsync.toNat) :
    ∃ l' tm', run (2 * (m + 1)) (placed s ⟨.hwsync, false, c, bit, frm⟩ l tm tr) =
      .next (placed s ⟨.swsync, false, BitVec.ofNat 3 (s.nsync.toNat - 1), bit, frm⟩ l' tm'
        (tr ++ traceOf (hwsyncSegs s.cfg (m + 1)))) := by
  induction m generalizing c l tm tr with
  | zero =>
    have last : BitVec.ofNat 3 (s.nsync.toNat - 1) = c := by
      apply BitVec.eq_of_toNat_eq
      simp
      omega
    have stop : ¬ c.toNat + 1 < s.nsync.toNat := by omega
    rw [last]
    exact ⟨_, _, run_pair hb hp (q := ⟨.hwsync, false, c, bit, frm⟩) (q1 := ⟨.hwsync, true, c, bit, frm⟩)
      (g1 := (true, s.cfg.tHwsyncHi)) (g2 := (false, s.cfg.tHwsyncLo)) rfl rfl (fun _ _ _ => rfl) (fun _ _ _ => rfl) (fun _ _ _ => rfl)
      (fun _ _ _ => by simp [moveOn, placed, stop]) l tm tr⟩
  | succ m ih =>
    have next : (c + 1).toNat = c.toNat + 1 := by
      rw [BitVec.toNat_add]
      show (c.toNat + 1) % 8 = _
      omega
    have more : c.toNat + 1 < s.nsync.toNat := by omega
    have first := run_pair hb hp (q := ⟨.hwsync, false, c, bit, frm⟩) (q1 := ⟨.hwsync, true, c, bit, frm⟩)
      (q2 := ⟨.hwsync, false, c + 1, bit, frm⟩)
      (g1 := (true, s.cfg.tHwsyncHi)) (g2 := (false, s.cfg.tHwsyncLo)) rfl rfl (fun _ _ _ => rfl)
      (fun _ _ _ => rfl) (fun _ _ _ => rfl) (fun _ _ _ => by simp [moveOn, placed, more]) l tm tr
    obtain ⟨l', tm', rest⟩ := ih (c + 1) _ _ _ (by omega)
    refine ⟨l', tm', run_trans (j := 2) (k := 2 * (m + 1)) (by ring) first (rest.trans ?_)⟩
    simp [hwsyncSegs, List.replicate_succ]

/-- Rules R123, R124, R135: the data bits left, at least one. -/
theorem run_data (hb : s.busy = true) (hp : Patient s) (m : Nat) (i : BitVec 6) (c frm : BitVec 3)
    (l : Bool) (tm : BitVec 17) (tr : List Event) (hi : i.toNat + (m + 1) = 56) :
    ∃ l' tm', run (2 * (m + 1)) (placed s ⟨.data, false, c, i, frm⟩ l tm tr) =
      .next (placed s ⟨.silence, false, c, 55, frm⟩ l' tm'
        (tr ++ traceOf (((dataBits s.f).drop i.toNat).flatMap (manSegs s.cfg)))) := by
  induction m generalizing i l tm tr with
  | zero =>
    obtain rfl : i = 55 := BitVec.eq_of_toNat_eq (by simpa using hi)
    have hd : dataBit s.f (55 : BitVec 6).toNat = some (s.f.f6.getLsbD 0) := rfl
    have due : ∀ half l tm tr, dueSegment (placed s ⟨.data, half, c, 55, frm⟩ l tm tr) =
        some (manHalf s.cfg (s.f.f6.getLsbD 0) half) := fun _ _ _ _ => by
      simp only [dueSegment, placed, hd, Option.map_some]
    exact ⟨_, _, run_pair hb hp (q1 := ⟨.data, true, c, 55, frm⟩) rfl rfl (due false) (due true)
      (fun _ _ _ => rfl) (fun _ _ _ => rfl) l tm tr⟩
  | succ m ih =>
    have hlt : i.toNat < (dataBits s.f).length := by
      rw [dataBits_length]
      omega
    have hd : dataBit s.f i.toNat = some ((dataBits s.f)[i.toNat]) := by
      rw [dataBit_eq_getElem? _ (by omega), List.getElem?_eq_getElem hlt]
    have next : (i + 1).toNat = i.toNat + 1 := by
      rw [BitVec.toNat_add]
      show (i.toNat + 1) % 64 = _
      omega
    have more : i.toNat < 55 := by omega
    rw [List.drop_eq_getElem_cons hlt]
    generalize (dataBits s.f)[i.toNat] = b at hd
    have due : ∀ half l tm tr, dueSegment (placed s ⟨.data, half, c, i, frm⟩ l tm tr) =
        some (manHalf s.cfg b half) := fun _ _ _ _ => by simp [dueSegment, placed, hd]
    have first := run_pair hb hp (q1 := ⟨.data, true, c, i, frm⟩) (q2 := ⟨.data, false, c, i + 1, frm⟩) rfl rfl
      (due false) (due true) (fun _ _ _ => rfl) (fun _ _ _ => by simp [moveOn, placed, more]) l tm tr
    obtain ⟨l', tm', rest⟩ := ih (i + 1) _ _ _ (by omega)
    refine ⟨l', tm', run_trans (j := 2) (k := 2 * (m + 1)) (by ring) first (rest.trans ?_)⟩
    rw [next]
    simp [manSegs]

/-- From the first pulse pair of a frame to its silence, which is due. -/
theorem run_to_silence (hb : s.busy = true) (hp : Patient s) (n : Nat) (hn : s.nsync.toNat = n + 1)
    (h7 : n + 1 ≤ 7) (bit : BitVec 6) (frm : BitVec 3) (l : Bool) (tm : BitVec 17) (tr : List Event) :
    ∃ l' tm', run (2 * (n + 1) + 114) (placed s ⟨.hwsync, false, 0, bit, frm⟩ l tm tr) =
      .next (placed s ⟨.silence, false, BitVec.ofNat 3 n, 55, frm⟩ l' tm'
        (tr ++ traceOf (hwsyncSegs s.cfg (n + 1) ++ swsyncSegs s.cfg ++ dataSegs s.cfg s.f))) := by
  obtain ⟨l1, t1, h1⟩ := run_hwsync hb hp (by omega) n 0 bit frm l tm tr (by simp [hn])
  obtain ⟨l2, t2, h2⟩ := run_swsync hb hp (BitVec.ofNat 3 (s.nsync.toNat - 1)) bit frm l1 t1
    (tr ++ traceOf (hwsyncSegs s.cfg (n + 1)))
  obtain ⟨l3, t3, h3⟩ := run_data hb hp 55 0 (BitVec.ofNat 3 (s.nsync.toNat - 1)) frm l2 t2
    (tr ++ traceOf (hwsyncSegs s.cfg (n + 1)) ++ traceOf (swsyncSegs s.cfg)) (by decide)
  refine ⟨l3, t3, run_trans (j := 2 * (n + 1) + 2) (k := 112) (by ring) (run_trans rfl h1 h2) (h3.trans ?_)⟩
  rw [hn]
  simp [dataSegs]

/-- A frame that no other follows, from its first pulse pair to the end of the operation. -/
theorem run_last_frame (hb : s.busy = true) (hp : Patient s) (n : Nat) (hn : s.nsync.toNat = n + 1)
    (h7 : n + 1 ≤ 7) (bit : BitVec 6) (frm : BitVec 3) (l : Bool) (tm : BitVec 17) (tr : List Event)
    (hlast : ¬ (s.burst = true ∧ frm.toNat < s.cfg.kRepeat)) :
    run (2 * (n + 1) + 116) (placed s ⟨.hwsync, false, 0, bit, frm⟩ l tm tr) =
      .next (finished s n frm (tr ++ traceOf
        (hwsyncSegs s.cfg (n + 1) ++ swsyncSegs s.cfg ++ dataSegs s.cfg s.f ++ silenceSegs s.cfg))) := by
  obtain ⟨l', tm', h⟩ := run_to_silence hb hp n hn h7 bit frm l tm tr
  refine run_trans (j := 2 * (n + 1) + 114) (k := 2) rfl h ?_
  have silence := fun tr => step_placed (q := ⟨.silence, false, BitVec.ofNat 3 n, 55, frm⟩) (l := l') (tm := tm')
    (tr := tr) hb hp rfl rfl
  refine run_two ((silence _).trans (by simp [moveOn, placed, hlast]; rfl)) ?_
  refine (step_busy (s := placed s ⟨.idle, false, BitVec.ofNat 3 n, 55, frm⟩ false (BitVec.ofNat 17 s.cfg.tIfs) _)
    hb hp).trans ?_
  simp [advance, placed, finished, silenceSegs]

/-- A frame of a burst that a repeat follows. -/
theorem run_repeated_frame (hb : s.busy = true) (hp : Patient s) (n : Nat) (hn : s.nsync.toNat = n + 1)
    (h7 : n + 1 ≤ 7) (bit : BitVec 6) (frm : BitVec 3) (l : Bool) (tm : BitVec 17) (tr : List Event)
    (hburst : s.burst = true) (hlt : frm.toNat < s.cfg.kRepeat) :
    ∃ l' tm', run (2 * (n + 1) + 115) (placed s ⟨.hwsync, false, 0, bit, frm⟩ l tm tr) =
      .next (placed { s with nsync := 7 } ⟨.hwsync, false, 0, 55, frm + 1⟩ l' tm' (tr ++ traceOf
        (hwsyncSegs s.cfg (n + 1) ++ swsyncSegs s.cfg ++ dataSegs s.cfg s.f ++ silenceSegs s.cfg))) := by
  obtain ⟨l', tm', h⟩ := run_to_silence hb hp n hn h7 bit frm l tm tr
  have silence := fun tr => step_placed (q := ⟨.silence, false, BitVec.ofNat 3 n, 55, frm⟩) (l := l') (tm := tm')
    (tr := tr) hb hp rfl rfl
  refine ⟨false, BitVec.ofNat 17 s.cfg.tIfs, run_trans (j := 2 * (n + 1) + 114) (k := 1) rfl h
    (run_one ((silence _).trans ?_))⟩
  simp [moveOn, placed, hburst, hlt, silenceSegs, Config.nSyncRepeat]

theorem frameSegs_repeat (c : Cfg) (f : Frame) :
    frameSegs c 7 f = hwsyncSegs c 7 ++ swsyncSegs c ++ dataSegs c f ++ silenceSegs c := by
  simp [frameSegs, Config.nSyncFirst]

theorem frameSegs_first (c : Cfg) (f : Frame) :
    frameSegs c 2 f = wakeSegs c ++ (hwsyncSegs c 2 ++ swsyncSegs c ++ dataSegs c f ++ silenceSegs c) := by
  simp [frameSegs, Config.nSyncFirst]

/-- The repeats left of a burst, at least one, to the end of the operation. -/
theorem run_repeats (hb : s.busy = true) (hp : Patient s) (hn : s.nsync = 7) (hburst : s.burst = true) (m : Nat)
    (frm : BitVec 3) (bit : BitVec 6) (l : Bool) (tm : BitVec 17) (tr : List Event)
    (hk : frm.toNat + m = s.cfg.kRepeat) :
    run (129 * (m + 1) + 1) (placed s ⟨.hwsync, false, 0, bit, frm⟩ l tm tr) =
      .next (finished s 6 (BitVec.ofNat 3 s.cfg.kRepeat)
        (tr ++ traceOf ((List.replicate (m + 1) (frameSegs s.cfg 7 s.f)).flatten))) := by
  have hn6 : s.nsync.toNat = 6 + 1 := by rw [hn]; rfl
  have h4 := s.cfg.kRepeat_cases
  induction m generalizing frm bit l tm tr with
  | zero =>
    have last : BitVec.ofNat 3 s.cfg.kRepeat = frm := by
      apply BitVec.eq_of_toNat_eq
      simp
      omega
    refine (run_last_frame hb hp 6 hn6 (by omega) bit frm l tm tr (by omega)).trans ?_
    rw [last, ← frameSegs_repeat]
    simp
  | succ m ih =>
    have next : (frm + 1).toNat = frm.toNat + 1 := by
      rw [BitVec.toNat_add]
      show (frm.toNat + 1) % 8 = _
      omega
    have same : ({ s with nsync := 7 } : State) = s := by rw [← hn]
    obtain ⟨l', tm', first⟩ := run_repeated_frame hb hp 6 hn6 (by omega) bit frm l tm tr hburst (by omega)
    rw [same, ← frameSegs_repeat] at first
    refine run_trans (j := 129) (k := 129 * (m + 1) + 1) (by ring) first
      ((ih (frm + 1) 55 l' tm' _ (by omega)).trans ?_)
    simp [List.replicate_succ]

end Sys2Proof.Machine
end

