-- ==== Sys2Proof/Laws/PerInstr.lean ====
section
/-! SUPPORT. For every constructor of `Instr`: its encoding is covered by its own row of
`opcode_table.json` (`30_encoding.md` rules R63, R64, R67). -/

namespace Sys2Proof.Laws.TableRow

/-- A row of the opcode table: the mask and the match of an operation word, or the value of a symbol. -/
inductive Row where
  | opw (mask pattern : Byte)
  | sym (b : Bool)
  deriving DecidableEq, Repr

/-- Does a row cover a code? -/
def Row.covers : Row → Code → Bool
  | .opw mask pattern, .opw w => w &&& mask == pattern
  | .sym b, .sym c => b == c
  | .opw _ _, .sym _ => false
  | .sym _, .opw _ => false

/-- The row of each constructor, as the table has it. -/
def rowOf : Instr → Row
  | .moveMy => .opw 0xFF 0x11
  | .moveUp => .opw 0xFF 0x12
  | .moveDown => .opw 0xFF 0x14
  | .moveProgram => .opw 0xFF 0x18
  | .buildMy => .opw 0xFF 0x21
  | .buildUp => .opw 0xFF 0x22
  | .buildDown => .opw 0xFF 0x24
  | .buildProgram => .opw 0xFF 0x28
  | .txFirst => .opw 0xFF 0x32
  | .txRepeat => .opw 0xFF 0x37
  | .txInvalid _ => .opw 0xF0 0x30
  | .load => .opw 0xFF 0x40
  | .save => .opw 0xFF 0x50
  | .man0 => .sym false
  | .man1 => .sym true

/-- The encoding of a well-formed instruction is covered by its row. -/
def Statement (i : Instr) : Prop := i.wellFormed = true → (rowOf i).covers (encode i) = true

theorem moveMy : Statement .moveMy := fun _ => rfl
theorem moveUp : Statement .moveUp := fun _ => rfl
theorem moveDown : Statement .moveDown := fun _ => rfl
theorem moveProgram : Statement .moveProgram := fun _ => rfl
theorem buildMy : Statement .buildMy := fun _ => rfl
theorem buildUp : Statement .buildUp := fun _ => rfl
theorem buildDown : Statement .buildDown := fun _ => rfl
theorem buildProgram : Statement .buildProgram := fun _ => rfl
theorem txFirst : Statement .txFirst := fun _ => rfl
theorem txRepeat : Statement .txRepeat := fun _ => rfl
theorem txInvalid (n : Nibble) : Statement (.txInvalid n) := by
  intro _
  revert n
  decide
theorem load : Statement .load := fun _ => rfl
theorem save : Statement .save := fun _ => rfl
theorem man0 : Statement .man0 := fun _ => rfl
theorem man1 : Statement .man1 := fun _ => rfl

end Sys2Proof.Laws.TableRow
end

