-- ==== Sys2Proof/Tests/Slice0.lean ====
section
/-! SUPPORT. The model's own tests: small facts whose expected results are the specification's
(`95_test_vectors.md`, the encoding tables of `30_encoding.md`), and, for every statement with hypotheses, a
concrete state and operands that meet all of them. -/

namespace Sys2Proof.Tests

open Sys2Proof Sys2Proof.Machine

/-! ### Well-formedness -/

theorem smoke_txInvalid_two_refused : (Instr.txInvalid 2).wellFormed = false := by decide
theorem smoke_txInvalid_seven_refused : (Instr.txInvalid 7).wellFormed = false := by decide
theorem smoke_txInvalid_three_accepted : (Instr.txInvalid 3).wellFormed = true := by decide

/-! ### Decoding: each word is `sel` (rule R63) then `arg` (rules R61, R64), or a data bit (rule R67) -/

theorem test_decode_move_my : decode 0b0001_0001 = .ok .moveMy := by rfl
theorem test_decode_move_up : decode 0b0001_0010 = .ok .moveUp := by rfl
theorem test_decode_move_down : decode 0b0001_0100 = .ok .moveDown := by rfl
theorem test_decode_move_program : decode 0b0001_1000 = .ok .moveProgram := by rfl
theorem test_decode_build_my : decode 0b0010_0001 = .ok .buildMy := by rfl
theorem test_decode_build_up : decode 0b0010_0010 = .ok .buildUp := by rfl
theorem test_decode_build_down : decode 0b0010_0100 = .ok .buildDown := by rfl
theorem test_decode_build_program : decode 0b0010_1000 = .ok .buildProgram := by rfl
theorem test_decode_tx_first : decode 0b0011_0010 = .ok .txFirst := by rfl
theorem test_decode_tx_repeat : decode 0b0011_0111 = .ok .txRepeat := by rfl
theorem test_decode_tx_invalid_low : decode 0b0011_0000 = .ok (.txInvalid 0) := by rfl
theorem test_decode_tx_invalid_high : decode 0b0011_1111 = .ok (.txInvalid 15) := by rfl
theorem test_decode_load : decode 0b0100_0000 = .ok .load := by rfl
theorem test_decode_save : decode 0b0101_0000 = .ok .save := by rfl
theorem test_decode_man0 : decodeSym false = .man0 := by rfl
theorem test_decode_man1 : decodeSym true = .man1 := by rfl
/-- Rule R70: 0x20, 0x23 and 0x2F carry no command code. -/
theorem test_decode_bad_command :
    decode 0x20 = .error .badCommand ∧ decode 0x23 = .error .badCommand ∧ decode 0x2F = .error .badCommand := by
  refine ⟨rfl, rfl, rfl⟩
/-- Rule R71 and vector M8: LOAD with `arg` = 1 is a reserved word. -/
theorem test_decode_reserved : decode 0x41 = .error .reservedWord ∧ decode 0x60 = .error .reservedWord := by
  refine ⟨rfl, rfl⟩

/-- The texts of vector S2. -/
theorem test_resolve_s2 :
    resolve [0x75, 0x70] = .up ∧ resolve [0x55, 0x50] = .up ∧ resolve [0x55, 0x70, 0x31] = .up ∧
      resolve [] = .my ∧ resolve [0x78, 0x79, 0x7A] = .my ∧ resolve [0x6D, 0x79] = .my := by decide
theorem test_move_text_word : (AsmLine.moveText [0x55, 0x70, 0x31]).word = 0x12 := by decide

/-! ### Small states -/

/-- The reset state with a value for the frame registers, so that tests can compare them, and one draw:
the next read succeeds. -/
def idle : State := { State.reset with f := ⟨0, 0, 0, 0, 0, 0, 0⟩, readDraws := [false] }

/-- `idle` with a value in its slot, on a storage with the byte order `e`: what is tested with it is tested for
both orders (rule R48). -/
def holding (e : Endian) (v : Word) : State :=
  { idle with cfg := { Cfg.ref with nvEndian := e }, nv := slotWrite e [] 0 v }

/-- `idle` with the frame of vector S1 in `F`. -/
def held : State := { idle with f := ⟨0xA7, 0x8E, 0x8E, 0x8F, 0x9D, 0xA9, 0xFF⟩, fv := true, cmd := 2 }

/-- A frame in progress, at a position of the sequencer. -/
def sending (ph : Phase) (half : Bool) : State :=
  { held with busy := true, nsync := 2, seq := { ph := ph, half := half, cnt := 0, bit := 0, frm := 0 } }

/-- The next state, if the outcome is one. -/
def nextOf : Host.Outcome State Fault Refusal → Option State
  | .next t => some t
  | .fault _ => none
  | .refused _ => none

/-! ### One step of each instruction -/

/-- Vectors S1 and B1. -/
theorem test_build_up : (nextOf (exec .buildUp idle)).map (fun t => (t.f, t.rc, t.tr)) =
    some (⟨0xA7, 0x8E, 0x8E, 0x8F, 0x9D, 0xA9, 0xFF⟩, 2, idle.tr ++ [.nvWrite 0 2]) := by decide
/-- Vector B10: the rolling code wraps at 2^32. -/
theorem test_build_down_wraps :
    (nextOf (exec .buildDown { idle with addr := 0x000001, rc := 0xFFFFFFFF })).map (fun t => (t.f, t.rc)) =
      some (⟨0xA7, 0xEF, 0x10, 0xEF, 0xEF, 0xEF, 0xEE⟩, 0) := by decide
/-- Vector B15: only `RC[3:0]` enters the dynamic key. -/
theorem test_build_my_dynamic :
    (nextOf (exec .buildMy { idle with cfg := { Cfg.ref with keyMode := .dynamic }, rc := 0x17 })).map (·.f) =
      some ⟨0xAF, 0xBA, 0xBA, 0xAD, 0xBF, 0x8B, 0xDD⟩ := by decide
/-- Vector B8: a 16-bit carry. -/
theorem test_build_program_carry :
    (nextOf (exec .buildProgram { idle with addr := 0xFFFFFF, rc := 0xFFFF })).map (fun t => (t.f, t.rc)) =
      some (⟨0xA7, 0x22, 0xDD, 0x22, 0xDD, 0x22, 0xDD⟩, 0x10000) := by decide
/-- Rule R160 and vector P1: the write of the new code comes first, and the wake-up is due. -/
theorem test_move_up : (nextOf (exec .moveUp idle)).map (fun t => (t.tr, t.seq.ph, t.nsync, t.burst)) =
    some (idle.tr ++ [.nvWrite 0 2], .wake, 2, true) := by decide
theorem test_move_my : (nextOf (exec .moveMy idle)).map (fun t => (t.f, t.cmd)) =
    some (⟨0xA7, 0xBD, 0xBD, 0xBC, 0xAE, 0x9A, 0xCC⟩, 1) := by decide
theorem test_move_down : (nextOf (exec .moveDown idle)).map (fun t => (t.f, t.cmd)) =
    some (⟨0xA7, 0xE8, 0xE8, 0xE9, 0xFB, 0xCF, 0x99⟩, 4) := by decide
theorem test_move_program : (nextOf (exec .moveProgram idle)).map (fun t => (t.f, t.cmd)) =
    some (⟨0xA7, 0x24, 0x24, 0x25, 0x37, 0x03, 0x55⟩, 8) := by decide
/-- Vector M4. -/
theorem test_load (e : Endian) : (nextOf (exec .load { holding e 5 with rc := 7 })).map (fun t => (t.rc, t.tr)) =
    some (5, idle.tr ++ [.nvRead 0 (some 5)]) := by cases e <;> decide
/-- Vector M3: a read that fails gives 1, and the store keeps its bytes. -/
theorem test_load_fails (e : Endian) :
    (nextOf (exec .load { holding e 42 with rc := 5, readDraws := [true] })).map (fun t => (t.rc, t.nv)) =
      some (1, (holding e 42).nv) := by cases e <;> decide
/-- Vector M5. -/
theorem test_save (e : Endian) :
    (nextOf (exec .save { holding e 42 with rc := 5 })).map (fun t => (slotOf t, t.rc, t.tr)) =
      some (some 5, 5, idle.tr ++ [.nvWrite 0 5]) := by cases e <;> decide
/-- Vector M7: the slot's offset. -/
theorem test_slot_address : slotAddr { Cfg.ref with nvBase := 16, slotIdx := 3 } = 28 := by decide
/-- Rule R141: TX.FIRST enters at `WAKE`, TX.REPEAT at `HWSYNC`. -/
theorem test_tx_first : (nextOf (exec .txFirst held)).map (fun t => (t.seq.ph, t.nsync, t.busy)) =
    some (.wake, 2, true) := by decide
theorem test_tx_repeat : (nextOf (exec .txRepeat held)).map (fun t => (t.seq.ph, t.nsync, t.busy)) =
    some (.hwsync, 7, true) := by decide
/-- Rule R140, with its example word 0x33. -/
theorem test_tx_invalid : nextOf (step { idle with inputs := [.opw 0x33] }) =
    some { idle with fault := true, fcause := 1, finfo := 3, seq := { idle.seq with ph := .halt } } := rfl
/-- Vectors E1 and E2. -/
theorem test_man1 : (nextOf (exec .man1 idle)).map (fun t => (t.tr, t.line)) =
    some (idle.tr ++ [.line false, .wait 640, .line true, .wait 640], true) := by decide
theorem test_man0 : (nextOf (exec .man0 idle)).map (fun t => (t.tr, t.line)) =
    some (idle.tr ++ [.line true, .wait 640, .line false, .wait 640], false) := by decide
/-- Rule R141, rows `WAKE`, with `REF`. -/
theorem test_wake_high : (nextOf (step (sending .wake false))).map (fun t => (t.tr, t.line, t.timer)) =
    some (idle.tr ++ [.line true, .wait 9415], true, 9415) := by decide
theorem test_wake_low : (nextOf (step (sending .wake true))).map (fun t => (t.tr, t.line, t.timer)) =
    some (idle.tr ++ [.line false, .wait 89565], false, 89565) := by decide
/-- Vector M6: a slot of all ones is a value, not "never written". -/
theorem test_reset_all_ones (e : Endian) :
    (nextOf (step { holding e 0xFFFFFFFF with inputs := [.reset .kept Cfg.ref.toSettings] })).map (·.rc) =
      some 0xFFFFFFFF := by cases e <;> decide
/-- Rule R222: new settings at a reset change neither the slot nor the rolling code. -/
theorem test_reset_new_settings (e : Endian) :
    (nextOf (step { holding e 2 with
      inputs := [.reset .kept { Cfg.ref.toSettings with keyMode := .dynamic, repeats := .four }] })).map
        (fun t => (t.rc, t.nv, t.cfg.kRepeat)) = some (2, (holding e 2).nv, 4) := by
  cases e <;> decide
/-- Rule R125: bits 1, 0, 0 make a long high, and then a short low and a short high. -/
theorem test_levels_merge : normalForm ([true, false, false].flatMap (manSegs Cfg.ref)) =
    [(false, 640), (true, 1280), (false, 640), (true, 640), (false, 640)] := by decide
/-- Vector E3: the levels of byte A7. -/
theorem test_levels_a7 : ((dataSegs Cfg.ref held.f).take 16).map (·.1) =
    [false, true, true, false, false, true, true, false, true, false, false, true, false, true, false, true] := by
  decide

/-! ### Witnesses: for each statement with hypotheses, a state and operands that meet them -/

/-- No input: nothing disturbs an operation in progress. -/
theorem patient_of_nil {s : State} (h : s.inputs = []) : Patient s := by
  intro i hi
  rw [h] at hi
  cases hi

/-- A next input that waits. -/
theorem patient_of_opw {s : State} {w : Byte} {rest : List Input} (h : s.inputs = .opw w :: rest) :
    Patient s := by
  intro i hi
  rw [h] at hi
  cases hi
  rfl

theorem witness_EncodeDecodeRoundTrip :
    (Instr.txInvalid 15).wellFormed = true ∧ decodeCode (.opw 0x3F) = .ok (.txInvalid 15) ∧
      decodeCode (.sym true) = .ok .man1 := ⟨rfl, rfl, rfl⟩

/-- Letters beside the six: each is neither of the clauses of a command. -/
theorem witness_CommandTextResolves : resolve [0x54] = .my ∧ resolve [0x56] = .my ∧ resolve [0x43] = .my ∧
    resolve [0x65] = .my ∧ resolve [0x4F] = .my ∧ resolve [0x71] = .my := by decide

/-- Two rolling codes that differ only above the sixteen transmitted bits (vector B9's neighbours). -/
theorem witness_FrameIsInjective :
    frameOf .dynamic 0xABCDEF 0x0001FFFF .up = frameOf .dynamic 0xABCDEF 0x0000FFFF .up := by decide

theorem witness_PlainFrameFields :
    (0x0001FFFF : Word).extractLsb' 0 16 = (0x0000FFFF : Word).extractLsb' 0 16 := by decide

theorem witness_Ready : Ready idle := by decide
theorem witness_Ready_wraps : Ready { idle with rc := 0xFFFFFFFF } := by decide

/-- Both scripted draws. -/
theorem witness_LoadCompletes :
    Ready idle ∧ idle.readDraws.head? = some false ∧
      Ready { idle with readDraws := [true] } ∧
      ({ idle with readDraws := [true] } : State).readDraws.head? = some true := by decide

/-- A step that writes the slot, one that loses it, and one that leaves it. -/
theorem witness_StoreChangesOnlyByWriteOrLoss :
    (nextOf (step { idle with inputs := [.opw 0x50] })).isSome = true ∧
      (nextOf (step { idle with inputs := [.reset .lost Cfg.ref.toSettings] })).isSome = true ∧
      (nextOf (step { idle with inputs := [.opw 0x40] })).isSome = true := by decide

theorem witness_SavedCodeIsLoadedBack :
    Ready { idle with rc := 5 } ∧ ({ idle with rc := 5 } : State).readDraws = false :: [] := by decide

/-- A store that holds `RC` at its last value but one, and a MOVE. -/
def saved (e : Endian) : State :=
  { holding e 0xFFFFFFFE with rc := 0xFFFFFFFE, inputs := [.opw 0x12, .reset .kept Cfg.ref.toSettings] }

theorem witness_RollingCodeAdvancesByOne (e : Endian) :
    (nextOf (step (saved e))).isSome = true ∧ slotOf (saved e) = some (saved e).rc ∧ (saved e).rc ≠ 0xFFFFFFFF ∧
      (saved e).readDraws = [false] ∧
      ∀ fate set rest, (saved e).inputs = .reset fate set :: rest → fate = .kept := by
  refine ⟨by cases e <;> decide, by cases e <;> decide, by cases e <;> decide, rfl, fun _ _ _ h => ?_⟩
  cases h

/-- The same with the reset as the next input. -/
theorem witness_RollingCodeAdvancesByOne_reset (e : Endian) :
    (nextOf (step { saved e with inputs := [.reset .kept Cfg.ref.toSettings] })).isSome = true := by
  cases e <;> decide

/-- A run of one step: the reset of the list is still to come. -/
theorem witness_RollingCodeNeverFallsAcrossRestarts (e : Endian) :
    (nextOf (Machine.run 1 (saved e))).isSome = true ∧ slotOf (saved e) = some (saved e).rc ∧
      (saved e).rc.toNat + 1 < 2 ^ 32 ∧ (saved e).readDraws = List.replicate 1 false ++ [] ∧
      ∀ fate set, Input.reset fate set ∈ (saved e).inputs → fate = .kept := by
  refine ⟨by cases e <;> decide, by cases e <;> decide, by cases e <;> decide, rfl, fun _ _ h => ?_⟩
  simp only [saved, List.mem_cons, reduceCtorEq, false_or, List.not_mem_nil, or_false, Input.reset.injEq] at h
  exact h.1

/-- The first, the last but one, and the last data bit. -/
theorem witness_DataPhaseSendsManchesterSymbols :
    (sending .data false).busy = true ∧ Patient (sending .data false) ∧ (sending .data false).seq.half = false ∧
      dataBit held.f 0 = some true ∧ dataBit held.f 54 = some true ∧ dataBit held.f 55 = some true ∧
      dataBit held.f 56 = none :=
  ⟨rfl, patient_of_nil rfl, rfl, rfl, rfl, rfl, rfl⟩

theorem witness_TxFirstSendsFirstFrame : Ready held ∧ held.fv = true ∧ Patient held :=
  ⟨by decide, rfl, patient_of_nil rfl⟩

/-- A ready block whose next request waits. -/
theorem witness_TxRepeatSendsRepeatFrame :
    Ready { held with inputs := [.opw 0x37] } ∧ ({ held with inputs := [.opw 0x37] } : State).fv = true ∧
      Patient { held with inputs := [.opw 0x37] } :=
  ⟨by decide, rfl, patient_of_opw rfl⟩

theorem witness_TxAcceptance : Ready held ∧ held.fv = true := by decide

theorem witness_TxWithoutFrameIsRefused : Ready idle ∧ idle.fv = false := by decide

theorem witness_TxInvalidTakesTheException :
    (Instr.txInvalid 0).wellFormed = true ∧ (Instr.txInvalid 15).wellFormed = true ∧ Ready idle ∧ Ready held := by
  decide

/-- One state for each row of the table, with the counts at the ends of their loops. -/
theorem witness_SequencerFollowsItsTable :
    (∀ ph half, (sending ph half).busy = true ∧ Patient (sending ph half) ∧ (sending ph half).seq.ph = ph ∧
      (sending ph half).seq.half = half) ∧
    (0 + 1 < (sending .hwsync true).nsync.toNat ∧ ¬ 1 + 1 < (sending .hwsync true).nsync.toNat) ∧
    (dataBit held.f 54 = some true ∧ dataBit held.f 55 = some true) ∧
    (({ sending .silence false with burst := true } : State).seq.frm.toNat < Cfg.ref.kRepeat ∧
      ¬ (2 : BitVec 3).toNat < Cfg.ref.kRepeat) :=
  ⟨fun _ _ => ⟨rfl, patient_of_nil rfl, rfl, rfl⟩, by decide, by decide, by decide⟩

theorem witness_RestingBlockStays : held.busy = false ∧ held.inputs = [] := by decide

theorem witness_TimingIndependentOfFrame :
    (sending .data true).inputs = [] ∧ (nextOf (Machine.run 3 (sending .data true))).isSome = true := by decide

/-- A wait of two microseconds with two ticks to come, and none left for a third. -/
theorem witness_TimerCountsDown :
    (sending .wake true).busy = true ∧ 2 ≤ ({ sending .wake true with timer := 2 } : State).timer.toNat ∧
      [Input.tick, .tick, .opw 0x11] = List.replicate 2 .tick ++ [.opw 0x11] := by decide

theorem witness_TraceStaysWholeSegments :
    wholeSegments (sending .data true).tr = true ∧ (nextOf (step (sending .data true))).isSome = true := by decide

/-- A MOVE just accepted meets the invariant, busy. -/
theorem witness_Inv_busy : Inv (startBurst .up idle) ∧ (startBurst .up idle).busy = true := by
  refine ⟨?_, rfl⟩
  constructor <;> first | decide | skip
  · intro i hi
    cases hi
  · exact fun _ => ⟨1, .up, rfl, rfl⟩
  · exact .inl (slotOf_buildFrame .up idle)

theorem witness_AcceptedOperationCompletes : Patient (startBurst .up idle) := patient_of_nil rfl

theorem witness_MoveSendsBurst : Ready idle ∧ Patient idle ∧ idle.cfg.kRepeat = 2 ∧
    ({ Cfg.ref with repeats := .four } : Cfg).kRepeat = 4 :=
  ⟨by decide, patient_of_nil rfl, rfl, rfl⟩

/-- The invariant of an idle block with a frame: after BUILD. -/
theorem witness_Inv_idle : Inv (buildFrame .up idle) ∧ (buildFrame .up idle).fv = true := by
  refine ⟨?_, rfl⟩
  constructor <;> first | decide | skip
  · intro i hi
    cases hi
  · exact fun _ => ⟨1, .up, rfl, rfl⟩
  · exact .inl (slotOf_buildFrame .up idle)

theorem witness_TransmissionStartsWithRisingEdge :
    isRequest .txRepeat = true ∧ exec .txRepeat (buildFrame .up idle) = .next (startFrame 7 (buildFrame .up idle)) ∧
      (startFrame 7 (buildFrame .up idle)).busy = true ∧ Patient (startFrame 7 (buildFrame .up idle)) :=
  ⟨rfl, rfl, rfl, patient_of_nil rfl⟩

theorem witness_StepRunsDecodedOperation :
    Ready { idle with inputs := [.opw 0x12] } ∧ Ready { idle with inputs := [.opwNow 0x12] } ∧
      decode 0x12 = .ok .moveUp := ⟨by decide, by decide, rfl⟩

theorem witness_FetchedWordIsPerformed : Ready idle ∧ decodeTableWord 8 0x12 = some .moveUp := ⟨by decide, rfl⟩

theorem witness_StepRunsNamedMove : Ready { idle with inputs := [.moveName [0x75, 0x70]] } := by decide

/-- One word for each clause: faulted, busy, a bad code, a reserved word, an invalid count, no frame, and a
word that passes. -/
theorem witness_RequestTestsInOrder :
    ({ idle with fault := true } : State).fault = true ∧ (sending .data true).fault = false ∧
      (sending .data true).busy = true ∧ Ready idle ∧ decode 0x13 = .error .badCommand ∧
      decode 0x00 = .error .reservedWord ∧ decode 0x30 = .ok (.txInvalid 0) ∧ idle.fv = false ∧
      decode 0x40 = .ok .load ∧ (∀ n, Instr.load ≠ .txInvalid n) :=
  ⟨rfl, rfl, rfl, by decide, rfl, rfl, rfl, rfl, rfl, fun n h => by cases h⟩

theorem witness_OperationsRefusedWhenNotReady :
    isRequest .save = true ∧ ({ idle with fault := true } : State).fault = true ∧
      (sending .data true).fault = false ∧ (sending .data true).busy = true := by decide

/-- A faulted block, and an input that is no reset. -/
theorem witness_FaultOnlyByInvalidCountAndSticky :
    (nextOf (step { idle with inputs := [.opw 0x33] })).map (·.fault) = some true ∧
      (nextOf (step { idle with fault := true, inputs := [.tick] })).isSome = true ∧
      resetNext { idle with fault := true, inputs := [.tick] } = false := by decide

theorem witness_MoveOnlyHostIsSafe :
    Safe { idle with inputs := [.opw 0x11, .moveName [], .opwNow 0x18, .tick, .reset .kept Cfg.ref.toSettings] } ∧
      MoveOnly { idle with inputs := [.opw 0x11, .moveName [], .opwNow 0x18, .tick, .reset .kept Cfg.ref.toSettings] } := by
  decide

/-- An idle block with a MOVE to come: the step that starts the transmission, and the block busy after it. -/
theorem witness_MoveOnlyHostSendsNoStaleFrame (e : Endian) :
    Safe (saved e) ∧ MoveOnly (saved e) ∧ (saved e).busy = false ∧ Machine.run 0 (saved e) = .next (saved e) ∧
      (nextOf (step (saved e))).map (·.busy) = some true ∧ CarriesLatestCode (startBurst .up idle) ∧
      (nextOf (step (startBurst .up idle))).map (·.busy) = some true :=
  ⟨rfl, by cases e <;> decide, rfl, rfl, by cases e <;> decide, ⟨rfl, rfl, .up, rfl, rfl⟩, by decide⟩

theorem witness_FrameIsStableWhileBusy :
    (sending .data true).busy = true ∧ resetNext (sending .data true) = false ∧
      (nextOf (step (sending .data true))).isSome = true := by decide

theorem witness_AddressAndConfigurationAreFixed :
    (nextOf (step { idle with inputs := [.opw 0x12] })).isSome = true ∧
      resetNext { idle with inputs := [.opw 0x12] } = false ∧
      (nextOf (step { idle with inputs := [.reset .kept { Cfg.ref.toSettings with addrCfg := 0xFFFFFF }] })).map (·.addr) =
        some 0xFFFFFF := by decide

theorem witness_OperationFrames :
    (nextOf (exec .moveMy idle)).isSome = true ∧ (nextOf (exec .load idle)).isSome = true ∧
      (nextOf (exec .save idle)).isSome = true ∧ (nextOf (exec .man0 idle)).isSome = true ∧
      (nextOf (exec .txFirst held)).isSome = true ∧ (nextOf (exec (.txInvalid 3) held)).isSome = true := by decide

theorem witness_ResetLeaves :
    ({ sending .data true with inputs := [.reset .lost Cfg.ref.toSettings] } : State).inputs = .reset .lost Cfg.ref.toSettings :: [] ∧
      ({ sending .data true with readDraws := [true] } : State).readDraws.head? = some true := ⟨rfl, rfl⟩

/-- A step of a state that meets the invariant. -/
theorem witness_StepKeepsInvariant : (nextOf (step (startBurst .up idle))).isSome = true := by decide

end Sys2Proof.Tests
end

section
/-! Scope: the normal form of a waveform (rule R7), and the address and the configuration (rules R1, R21,
R33, R222). -/

namespace Sys2Proof.Machine

/-! ### The normal form -/

/-- Puts a segment before a waveform in normal form: merged with the first one when the levels agree. -/
def prependSegment (g : Segment) : List Segment → List Segment
  | [] => [g]
  | h :: hs => if g.1 = h.1 then (g.1, g.2 + h.2) :: hs else g :: h :: hs

@[simp] theorem normalForm_nil : normalForm [] = [] := rfl

@[simp] theorem normalForm_cons (g : Segment) (gs : List Segment) :
    normalForm (g :: gs) = prependSegment g (normalForm gs) := by
  rw [normalForm]
  cases normalForm gs <;> rfl

@[simp] theorem duration_cons (g : Segment) (gs : List Segment) : duration (g :: gs) = g.2 + duration gs := by
  simp [duration]

@[simp] theorem highTime_cons (g : Segment) (gs : List Segment) :
    highTime (g :: gs) = (if g.1 then g.2 else 0) + highTime gs := by
  cases hg : g.1 <;> simp [highTime, hg]

@[simp] theorem duration_prependSegment (g : Segment) (gs : List Segment) :
    duration (prependSegment g gs) = g.2 + duration gs := by
  cases gs with
  | nil => simp [prependSegment]
  | cons h hs =>
    by_cases hl : g.1 = h.1
    · simp [prependSegment, hl, Nat.add_assoc]
    · simp [prependSegment, hl]

@[simp] theorem highTime_prependSegment (g : Segment) (gs : List Segment) :
    highTime (prependSegment g gs) = (if g.1 then g.2 else 0) + highTime gs := by
  cases gs with
  | nil => simp [prependSegment]
  | cons h hs =>
    by_cases hl : g.1 = h.1
    · cases hh : h.1 <;> simp [prependSegment, hl, hh, Nat.add_assoc]
    · simp [prependSegment, hl]

/-- Merging keeps the level the next segment is compared with, so alternating levels still alternate. -/
theorem prependSegment_alternates (g : Segment) {gs : List Segment}
    (hc : gs.IsChain (fun g h => g.1 ≠ h.1)) : (prependSegment g gs).IsChain (fun g h => g.1 ≠ h.1) := by
  cases gs with
  | nil => exact .singleton g
  | cons h hs =>
    by_cases hl : g.1 = h.1
    · rw [List.isChain_cons] at hc
      simpa [prependSegment, hl, List.isChain_cons] using hc
    · simpa [prependSegment, hl] using hc

theorem duration_normalForm (gs : List Segment) : duration (normalForm gs) = duration gs := by
  induction gs with
  | nil => rfl
  | cons g gs ih => simp [ih]

theorem highTime_normalForm (gs : List Segment) : highTime (normalForm gs) = highTime gs := by
  induction gs with
  | nil => rfl
  | cons g gs ih => simp [ih]

theorem normalForm_alternates (gs : List Segment) : (normalForm gs).IsChain (fun g h => g.1 ≠ h.1) := by
  induction gs with
  | nil => exact .nil
  | cons g gs ih => simpa using prependSegment_alternates g ih

/-- Settles O27: durations add up under merging, and a merge keeps the levels alternating. -/
theorem normalFormMergesLevels : Obligations.NormalFormMergesLevels :=
  fun gs => ⟨duration_normalForm gs, highTime_normalForm gs, normalForm_alternates gs⟩

/-! ### The address and the configuration -/

section startFrame
variable (n : Nibble) (s : State)
@[simp] theorem startFrame_addr : (startFrame n s).addr = s.addr := rfl
@[simp] theorem startFrame_cfg : (startFrame n s).cfg = s.cfg := rfl
@[simp] theorem startFrame_inputs : (startFrame n s).inputs = s.inputs := rfl
end startFrame

section manSymbol
variable (b : Bool) (s : State)
@[simp] theorem manSymbol_addr : (manSymbol b s).addr = s.addr := rfl
@[simp] theorem manSymbol_cfg : (manSymbol b s).cfg = s.cfg := rfl
@[simp] theorem manSymbol_inputs : (manSymbol b s).inputs = s.inputs := rfl
end manSymbol

variable {s t : State}

/-- No operation writes the address, the configuration or the inputs still to come. -/
theorem exec_keeps_addr_cfg_inputs {i : Instr} (h : exec i s = .next t) :
    t.addr = s.addr ∧ t.cfg = s.cfg ∧ t.inputs = s.inputs := by
  cases exec_cases h with
  | moves c hi hr ht => simp [ht]
  | builds c hi hr ht => simp [ht]
  | raises n hi hr hn ht => simp [ht]
  | transmits n hi hr hn hv ht => simp [ht]
  | loads hi hr ht => simp [ht]
  | saves hi hr ht => simp [ht]
  | sends b hi ht => simp [ht]

/-- A reset that comes next is taken, whatever the block is doing (rule R210). -/
theorem step_reset {fate : StoreFate} {set : Settings} {rest : List Input}
    (hi : s.inputs = .reset fate set :: rest) :
    step s = .next (resetBlock fate set { s with inputs := rest }) := by
  simp [step, hi, takeInput]

/-- Every step but a reset leaves the address and the configuration as they are (rules R1, R21). -/
theorem step_keeps_addr_cfg (h : step s = .next t) (hn : resetNext s = false) :
    t.addr = s.addr ∧ t.cfg = s.cfg := by
  cases step_cases h with
  | rests rest hb hi ht => simp [ht]
  | advances rest hb hi ha => exact ⟨(advance_sameRecord ha).addr, (advance_sameRecord ha).cfg⟩
  | elapses rest hb hi hn ht => simp [ht]
  | performs w i a rest hr hi ha hd he =>
    obtain ⟨haddr, hcfg, -⟩ := exec_keeps_addr_cfg_inputs he
    exact ⟨haddr, hcfg⟩
  | resets fate set rest hi ht => simp [resetNext, hi] at hn

/-- Settles O53: only a reset writes the two, and it writes the settings it is released with. -/
theorem addressAndConfigurationAreFixed : Obligations.AddressAndConfigurationAreFixed := by
  intro s t h
  refine ⟨step_keeps_addr_cfg h, fun fate set rest hi => ?_⟩
  obtain rfl : resetBlock fate set { s with inputs := rest } = t := by simpa [step_reset hi] using h
  exact ⟨resetBlock_addr _ _ _, resetBlock_cfg _ _ _⟩

end Sys2Proof.Machine
end

section
/-! Scope: steps from every state and from the states of the invariant: what a wait, a fault and a busy block
keep (rules R13, R19, R27), and the invariant itself (rules R16, R18, R24, R31, R111, R146). -/

namespace Sys2Proof.Machine

variable {s t : State}

/-! ### A wait -/

/-- A microsecond of a wait that is not over (rule R27). -/
theorem step_tick {rest : List Input} (hb : s.busy = true) (hn : s.timer ≠ 0) (hi : s.inputs = .tick :: rest) :
    step s = .next { s with timer := s.timer - 1, inputs := rest } := by
  simp only [step, hi, takeInput, tickOnce, hb, if_true, if_neg hn]

theorem run_ticks (k : Nat) {rest : List Input} (hb : s.busy = true) (hk : k ≤ s.timer.toNat)
    (hi : s.inputs = List.replicate k .tick ++ rest) :
    run k s = .next { s with timer := BitVec.ofNat 17 (s.timer.toNat - k), inputs := rest } := by
  induction k generalizing s with
  | zero =>
    obtain rfl : s.inputs = rest := by simpa using hi
    simp
  | succ k ih =>
    have hn : s.timer ≠ 0 := by
      intro h
      simp [h] at hk
    have hlow : (s.timer - 1).toNat = s.timer.toNat - 1 := by bv_omega
    rw [List.replicate_succ, List.cons_append] at hi
    have htail := ih (s := { s with timer := s.timer - 1, inputs := List.replicate k .tick ++ rest }) hb
      (by rw [hlow]; omega) rfl
    rw [run_succ_next k (step_tick hb hn hi)]
    simpa only [hlow, Nat.sub_sub, Nat.add_comm 1 k] using htail

/-- Outside `HALT` the transmitter does not read the time left of a wait: the next segment, or the end of the
operation, overwrites it. -/
theorem advance_timer (n : BitVec 17) (hp : s.seq.ph ≠ .halt) : advance { s with timer := n } = advance s := by
  have hdue : dueSegment { s with timer := n } = dueSegment s := rfl
  have hemit : ∀ g, emit g { s with timer := n } = emit g s := fun _ => rfl
  simp only [advance, hdue, hemit]
  cases h : s.seq.ph with
  | halt => exact absurd h hp
  | _ => rfl

/-- Settles O37, by induction on the number of ticks. -/
theorem timerCountsDown : Obligations.TimerCountsDown :=
  ⟨fun k _ _ => run_ticks k, fun s n => (em (s.seq.ph = .halt)).symm.imp_left (advance_timer n)⟩

/-! ### A busy block -/

/-- Settles O52: a busy block takes no word, and neither the transmitter nor a tick writes these fields. -/
theorem frameIsStableWhileBusy : Obligations.FrameIsStableWhileBusy := by
  intro s t hb hn h
  cases step_cases h with
  | rests rest hb' => simp [hb] at hb'
  | advances rest _ hi ha =>
    obtain ⟨hcfg, hf, hfv, -, -, -, haddr, hrc, hcmd, hburst, hnv, -, -, -, -⟩ := advance_sameRecord ha
    exact ⟨hf, hfv, hcmd, hrc, haddr, hnv, hcfg, hburst⟩
  | elapses rest _ hi _ ht => simp [ht]
  | performs w i a rest hr => cases hb.symm.trans hr.2
  | resets fate set rest hi => simp [resetNext, hi] at hn

/-! ### The fault -/

/-- The word of a named move is the MOVE of its command (rules R76, R77). -/
theorem decode_moveWord (text : List Byte) : decode (moveWord text) = .ok (moveInstr (resolve text)) := by
  unfold moveWord
  cases resolve text <;> rfl

theorem validSyncCount_eq_false {n : Nibble} : validSyncCount n = false ↔ n ≠ 2 ∧ n ≠ 7 := by
  simp [validSyncCount, Config.nSyncFirst, Config.nSyncRepeat]

/-- Every operation a host can request is admitted first (rule R187 items 1 and 2). -/
theorem exec_request {i : Instr} (hi : isRequest i = true) (s : State) : ∃ go, exec i s = whenIdle s go := by
  cases i with
  | man0 => cases hi
  | man1 => cases hi
  | _ => exact ⟨_, rfl⟩

@[simp] theorem startFrame_fault (n : Nibble) (s : State) : (startFrame n s).fault = s.fault := rfl
@[simp] theorem manSymbol_fault (b : Bool) (s : State) : (manSymbol b s).fault = s.fault := rfl

/-- An operation sets `FAULT` only as TX.INVALID, with the effects of rule R185. -/
theorem exec_sets_fault {i : Instr} (h : exec i s = .next t) (hs : s.fault = false) (ht : t.fault = true) :
    ∃ n, i = .txInvalid n ∧ t = raiseInvalidSyncCount n s := by
  cases exec_cases h with
  | raises n hi hr hn he => exact ⟨n, hi, he⟩
  | moves c hi hr he => simp [he, hs] at ht
  | builds c hi hr he => simp [he, hs] at ht
  | transmits n hi hr hn hv he => simp [he, hs] at ht
  | loads hi hr he => simp [he, hs] at ht
  | saves hi hr he => simp [he, hs] at ht
  | sends b hi he => simp [he, hs] at ht

/-- `FAULT` rises only by a TX.INVALID word on the port (rules R140, R181, R185). -/
theorem step_sets_fault (h : step s = .next t) (hs : s.fault = false) (ht : t.fault = true) :
    ∃ w n rest, (s.inputs = .opw w :: rest ∨ s.inputs = .opwNow w :: rest) ∧ decode w = .ok (.txInvalid n) ∧
      t = raiseInvalidSyncCount n { s with inputs := rest } := by
  cases step_cases h with
  | rests rest hb hi he => simp [he, hs] at ht
  | advances rest hb hi ha => simp [(advance_sameRecord ha).fault, hs] at ht
  | elapses rest hb hi hn he => simp [he, hs] at ht
  | performs w i a rest hr hi ha hd hx =>
    obtain ⟨n, rfl, he⟩ := exec_sets_fault hx hs ht
    rcases ha with rfl | rfl | ⟨text, rfl, rfl⟩
    · exact ⟨w, n, rest, .inl hi, hd, he⟩
    · exact ⟨w, n, rest, .inr hi, hd, he⟩
    · rw [decode_moveWord] at hd
      generalize resolve text = c at hd
      cases c <;> cases hd
  | resets fate set rest hi he => simp [he] at ht

/-- A faulted block keeps its fault and the cause of it until a reset (rule R186). -/
theorem step_keeps_fault (h : step s = .next t) (hs : s.fault = true) (hn : resetNext s = false) :
    t.fault = true ∧ t.fcause = s.fcause ∧ t.finfo = s.finfo := by
  cases step_cases h with
  | rests rest hb hi ht => simp [ht, hs]
  | advances rest hb hi ha =>
    have same := advance_sameRecord ha
    exact ⟨same.fault.trans hs, same.fcause, same.finfo⟩
  | elapses rest hb hi _ ht => simp [ht, hs]
  | performs w i a rest hr => cases hs.symm.trans hr.1
  | resets fate set rest hi => simp [resetNext, hi] at hn

/-- Settles O49: the only operation that sets `FAULT` is TX.INVALID, and a faulted block admits none. -/
theorem faultOnlyByInvalidCountAndSticky : Obligations.FaultOnlyByInvalidCountAndSticky := by
  refine fun s t h => ⟨fun hs ht => ?_, step_keeps_fault h, fun hs i hi => ?_⟩
  · obtain ⟨w, n, rest, hi, hd, rfl⟩ := step_sets_fault h hs ht
    obtain ⟨h2, h7⟩ := validSyncCount_eq_false.1 (decode_txInvalid hd)
    exact ⟨w, n, rest, hi, hd, h2, h7, rfl, rfl, rfl, rfl⟩
  · obtain ⟨go, he⟩ := exec_request hi s
    rw [he, whenIdle_faulted hs]

/-! ### No fault outcome -/

/-- With `BIT` in its range the transmitter always has a segment to send (rule R16). -/
theorem advance_ne_fault (hb : s.seq.bit.toNat ≤ 55) (r : Fault) : advance s ≠ .fault r := by
  cases hp : s.seq.ph.sending
  · unfold advance
    split <;> simp_all [Phase.sending]
  · obtain ⟨g, hg⟩ := dueSegment_isSome hp hb
    simp [advance_sending hp hg]

theorem tickOnce_ne_fault (hb : s.seq.bit.toNat ≤ 55) (r : Fault) : tickOnce s ≠ .fault r := by
  unfold tickOnce
  split
  · exact advance_ne_fault hb r
  · simp

theorem proceed_ne_fault (hb : s.seq.bit.toNat ≤ 55) (r : Fault) : proceed s ≠ .fault r := by
  unfold proceed
  split
  · exact advance_ne_fault hb r
  · simp

/-- With `BIT` in its range no input makes a step answer a fault: a word on the port never does. -/
theorem step_ne_fault (hb : s.seq.bit.toNat ≤ 55) (r : Fault) : step s ≠ .fault r := by
  have waiting : ∀ w rest, (if s.busy then proceed s else present w { s with inputs := rest }) ≠ .fault r := by
    intro w rest
    split
    · exact proceed_ne_fault hb r
    · exact present_ne_fault w _ r
  unfold step
  split
  · exact proceed_ne_fault hb r
  · rename_i i rest _
    cases i with
    | opw w => exact waiting w rest
    | moveName text => exact waiting (moveWord text) rest
    | opwNow w => exact present_ne_fault w _ r
    | tick =>
      simp only [takeInput]
      split
      · exact tickOnce_ne_fault (s := { s with inputs := rest }) hb r
      · simp
    | reset fate set => simp [takeInput]

/-- Settles O59: the invariant keeps `BIT` in its range, and a step faults nowhere else. -/
theorem invariantExcludesFaults : Obligations.InvariantExcludesFaults := fun _ r h => step_ne_fault h.bitLe r

/-! ### The invariant: a position in a frame -/

/-- The clauses of `Inv` about the sequencer while a frame is in progress, for `k` repeats, the burst flag `b`,
the sync count `n` and the position `q` (rules R15, R16, R24, R25, R132). -/
structure FramePosition (k : Nat) (b : Bool) (n : Nibble) (q : Seq) : Prop where
  sending : q.ph.sending = true
  cntLe : q.cnt.toNat ≤ 6
  bitLe : q.bit.toNat ≤ 55
  frmLe : q.frm.toNat ≤ k
  sync : n = Config.nSyncFirst ∨ n = Config.nSyncRepeat
  burstSync : b = true → (n = Config.nSyncFirst ↔ q.frm = 0)
  wakeFirst : q.ph = .wake → n = Config.nSyncFirst
  hwsyncCount : q.ph = .hwsync → q.cnt.toNat < n.toNat
  standAlone : b = false → q.frm = 0

theorem framePosition_of_inv (h : Inv s) (hs : s.seq.ph.sending = true) :
    FramePosition s.cfg.kRepeat s.burst s.nsync s.seq where
  sending := hs
  cntLe := h.cntLe
  bitLe := h.bitLe
  frmLe := h.frmLe
  sync := h.sendingSync hs
  burstSync := fun hb => h.burstSync hb hs
  wakeFirst := h.wakeFirst
  hwsyncCount := h.hwsyncCount
  standAlone := h.standAlone

/-- An unfaulted block with a frame, put at a position in it and busy, has the invariant. -/
theorem inv_enterFrame (h : Inv s) (hf : s.fault = false) (hv : s.fv = true) {b : Bool} {n : Nibble} {q : Seq}
    (p : FramePosition s.cfg.kRepeat b n q) :
    Inv { s with nsync := n, burst := b, busy := true, seq := q } := by
  have hhalt : q.ph ≠ .halt := by
    intro hq
    simpa [hq, Phase.sending] using p.sending
  exact { h with
    cntLe := p.cntLe
    bitLe := p.bitLe
    frmLe := p.frmLe
    sendingBusy := fun _ => ⟨rfl, hv⟩
    sendingSync := fun _ => p.sync
    burstSync := fun hb _ => p.burstSync hb
    wakeFirst := p.wakeFirst
    hwsyncCount := p.hwsyncCount
    standAlone := p.standAlone
    faultHalt := by simp [hf, hhalt]
    faultIdle := by simp [hf]
    restLow := by simp [p.sending]
    idleTimer := by simp }

/-- The start of a first frame: frame 0, at its wake-up (rules R24, R132, R141). -/
theorem framePosition_wake {q : Seq} (hcnt : q.cnt.toNat ≤ 6) (hbit : q.bit.toNat ≤ 55) (k : Nat) (b : Bool) :
    FramePosition k b Config.nSyncFirst { q with ph := .wake, half := false, frm := 0 } where
  sending := rfl
  cntLe := hcnt
  bitLe := hbit
  frmLe := Nat.zero_le k
  sync := .inl rfl
  burstSync := fun _ => iff_of_true rfl rfl
  wakeFirst := fun _ => rfl
  hwsyncCount := by simp
  standAlone := fun _ => rfl

/-- The start of a repeat frame: in a burst not its first frame, and frame 0 of a stand-alone TX
(rules R24, R25, R141). -/
theorem framePosition_hwsync {q : Seq} {frm : BitVec 3} {k : Nat} {b : Bool} (hbit : q.bit.toNat ≤ 55)
    (hfrm : frm.toNat ≤ k) (hburst : b = true → frm ≠ 0) (halone : b = false → frm = 0) :
    FramePosition k b Config.nSyncRepeat { q with ph := .hwsync, half := false, cnt := 0, frm := frm } where
  sending := rfl
  cntLe := by simp
  bitLe := hbit
  frmLe := hfrm
  sync := .inr rfl
  burstSync := fun hb => iff_of_false (by decide) (hburst hb)
  wakeFirst := by simp
  hwsyncCount := fun _ => by simp [Config.nSyncRepeat]
  standAlone := halone

/-- One segment after a position in a frame the sequencer is at another one, or, after the last silence, at
`IDLE` (rules R16, R141). -/
theorem framePosition_moveOn (p : FramePosition s.cfg.kRepeat s.burst s.nsync s.seq) :
    (s.seq.ph = .silence ∧ moveOn s = { s with seq := { s.seq with ph := .idle } }) ∨
      ∃ n q, moveOn s = { s with nsync := n, seq := q } ∧ FramePosition s.cfg.kRepeat s.burst n q := by
  have hn : 2 ≤ s.nsync.toNat ∧ s.nsync.toNat ≤ 7 := by
    rcases p.sync with h | h <;> rw [h] <;> decide
  unfold moveOn
  split
  case h_1 hp => simpa [hp, Phase.sending] using p.sending
  case h_7 hp => simpa [hp, Phase.sending] using p.sending
  case h_2 => -- WAKE
    right
    split
    · exact ⟨_, _, rfl, { p with
        sending := rfl, cntLe := by simp, wakeFirst := by simp, hwsyncCount := fun _ => by simp; omega }⟩
    · exact ⟨_, _, rfl, { p with }⟩
  case h_3 => -- HWSYNC
    right
    split
    · split
      · rename_i hlt
        have hcnt : (s.seq.cnt + 1).toNat = s.seq.cnt.toNat + 1 := by bv_omega
        exact ⟨_, _, rfl, { p with
          cntLe := by simp only [hcnt]; omega, hwsyncCount := fun _ => by simp only [hcnt]; exact hlt }⟩
      · exact ⟨_, _, rfl, { p with sending := rfl, wakeFirst := by simp, hwsyncCount := by simp }⟩
    · exact ⟨_, _, rfl, { p with }⟩
  case h_4 => -- SWSYNC
    right
    split
    · exact ⟨_, _, rfl, { p with sending := rfl, bitLe := by simp, wakeFirst := by simp, hwsyncCount := by simp }⟩
    · exact ⟨_, _, rfl, { p with }⟩
  case h_5 => -- DATA
    right
    split
    · split
      · rename_i hlt
        exact ⟨_, _, rfl, { p with bitLe := by bv_omega }⟩
      · exact ⟨_, _, rfl, { p with sending := rfl, wakeFirst := by simp, hwsyncCount := by simp }⟩
    · exact ⟨_, _, rfl, { p with }⟩
  case h_6 hp => -- SILENCE
    split
    · rename_i hmore
      obtain ⟨hburst, hlt⟩ := hmore
      have hk := s.cfg.kRepeat_cases
      have hfrm : (s.seq.frm + 1).toNat = s.seq.frm.toNat + 1 := by bv_omega
      have hne : s.seq.frm + 1 ≠ 0 := by bv_omega
      exact .inr ⟨_, _, rfl, framePosition_hwsync p.bitLe (by omega) (fun _ => hne) (by simp [hburst])⟩
    · exact .inl ⟨hp, rfl⟩

/-! ### The invariant: each operation keeps it -/

theorem inv_withInputs (h : Inv s) {rest : List Input} (hr : rest ⊆ s.inputs) :
    Inv { s with inputs := rest } :=
  { h with inputsOk := fun i hi => h.inputsOk i (hr hi) }

/-- A frame in progress keeps `BUSY` (rule R18), so an idle block is in none. -/
theorem not_sending_of_idle (h : Inv s) (hb : s.busy = false) : s.seq.ph.sending = false := by
  by_contra hs
  obtain ⟨hbusy, -⟩ := h.sendingBusy (by simpa using hs)
  cases hb.symm.trans hbusy

/-- Line events and waits are no accesses to the store. -/
theorem lastStoreEvent_append_segment (tr : List Event) (v : Bool) (n : Nat) :
    lastStoreEvent (tr ++ [.line v, .wait n]) = lastStoreEvent tr := by
  simp [lastStoreEvent, isStoreEvent]

theorem lastStoreEvent_append_nvRead (tr : List Event) (a : Nat) (r : Option Word) :
    lastStoreEvent (tr ++ [.nvRead a r]) = some (.nvRead a r) := by
  simp [lastStoreEvent, isStoreEvent]

/-- A segment leaves the slot, `RC` and the accesses to the store in the trace. -/
theorem codeTied_emit (h : CodeTied s) (g : Segment) : CodeTied (emit g s) := by
  unfold CodeTied
  rw [emit_tr, lastStoreEvent_append_segment]
  exact h

theorem codeTied_loadRollingCode (s : State) : CodeTied (loadRollingCode s) := by
  rcases memReadValue_cases s with hr | ⟨v, hs, hr⟩
  · exact .inr ⟨by simp [hr], by simp [hr, lastStoreEvent_append_nvRead]⟩
  · exact .inl (by simp [slotOf_loadRollingCode, hs, hr])

theorem inv_buildFrame (h : Inv s) (c : CommandCode) : Inv (buildFrame c s) :=
  { h with
    nvWf := wf_slotWrite h.nvWf _ _ _
    sendingBusy := fun hs => ⟨(h.sendingBusy hs).1, rfl⟩
    frameBuilt := fun _ => ⟨s.rc, c, by simp [h.addrFixed], rfl⟩
    noCommand := by simp
    codeTied := .inl (slotOf_buildFrame c s) }

theorem inv_startBurst (h : Inv s) (hf : s.fault = false) (c : CommandCode) : Inv (startBurst c s) :=
  inv_enterFrame (inv_buildFrame h c) hf rfl (framePosition_wake h.cntLe h.bitLe _ _)

theorem inv_startFrame (h : Inv s) (hf : s.fault = false) (hv : s.fv = true) {n : Nibble}
    (hn : validSyncCount n = true) : Inv (startFrame n s) := by
  have hsync : n = Config.nSyncFirst ∨ n = Config.nSyncRepeat := by simpa [validSyncCount] using hn
  refine inv_enterFrame h hf hv ?_
  rcases hsync with rfl | rfl
  · exact framePosition_wake h.cntLe h.bitLe _ _
  · exact framePosition_hwsync h.bitLe (Nat.zero_le _) (by simp) (fun _ => rfl)

theorem inv_raiseInvalidSyncCount (h : Inv s) (hb : s.busy = false) {n : Nibble} (hn : validSyncCount n = false) :
    Inv (raiseInvalidSyncCount n s) :=
  { h with
    sendingBusy := by simp [Phase.sending]
    sendingSync := by simp [Phase.sending]
    burstSync := by simp [Phase.sending]
    wakeFirst := by simp
    hwsyncCount := by simp
    faultHalt := by simp
    faultIdle := by simp
    faultCause := fun _ => ⟨rfl, hn⟩
    noCause := by simp
    restLow := fun _ => h.restLow (not_sending_of_idle h hb)
    idleTimer := fun _ => h.idleTimer hb }

theorem inv_loadRollingCode (h : Inv s) : Inv (loadRollingCode s) :=
  { h with codeTied := codeTied_loadRollingCode s }

theorem inv_saveRollingCode (h : Inv s) : Inv (memWrite s.rc s) :=
  { h with
    nvWf := wf_slotWrite h.nvWf _ _ _
    codeTied := .inl (slotOf_memWrite s.rc s) }

/-- No operation word is a symbol of the data phase; every other operation keeps the invariant. -/
theorem inv_exec (h : Inv s) {i : Instr} (hi : ∀ b, i ≠ decodeSym b) (he : exec i s = .next t) : Inv t := by
  cases exec_cases he with
  | moves c _ hr ht => exact ht ▸ inv_startBurst h hr.1 c
  | builds c _ _ ht => exact ht ▸ inv_buildFrame h c
  | raises n _ hr hn ht => exact ht ▸ inv_raiseInvalidSyncCount h hr.2 hn
  | transmits n _ hr hn hv ht => exact ht ▸ inv_startFrame h hr.1 hv hn
  | loads _ _ ht => exact ht ▸ inv_loadRollingCode h
  | saves _ _ ht => exact ht ▸ inv_saveRollingCode h
  | sends b hs => exact absurd hs (hi b)

/-! ### The invariant: the transmitter and the reset keep it -/

theorem inv_emit (h : Inv s) (hs : s.seq.ph.sending = true) (g : Segment) : Inv (emit g s) :=
  { h with
    restLow := by simp [hs]
    idleTimer := by simp [(h.sendingBusy hs).1]
    codeTied := codeTied_emit h.codeTied g }

/-- After the last silence the sequencer rests at `IDLE` with the line low and `BUSY` still 1 (rules R136, R146). -/
theorem inv_endFrame (h : Inv s) (hl : s.line = false) (hf : s.fault = false) :
    Inv { s with seq := { s.seq with ph := .idle } } :=
  { h with
    sendingBusy := by simp [Phase.sending]
    sendingSync := by simp [Phase.sending]
    burstSync := by simp [Phase.sending]
    wakeFirst := by simp
    hwsyncCount := by simp
    faultHalt := by simp [hf]
    restLow := fun _ => hl }

theorem fault_eq_false_of_inv (h : Inv s) (hp : s.seq.ph ≠ .halt) : s.fault = false :=
  Bool.eq_false_iff.2 fun hf => hp (h.faultHalt.1 hf)

theorem inv_moveOn (h : Inv s) (hs : s.seq.ph.sending = true) (hl : s.seq.ph = .silence → s.line = false) :
    Inv (moveOn s) := by
  obtain ⟨hb, hv⟩ := h.sendingBusy hs
  have hf : s.fault = false := fault_eq_false_of_inv h fun hp => by simp [hp, Phase.sending] at hs
  rcases framePosition_moveOn (framePosition_of_inv h hs) with ⟨hp, ht⟩ | ⟨n, q, ht, p⟩
  · exact ht ▸ inv_endFrame h (hl hp) hf
  · have hnext := inv_enterFrame h hf hv p
    rw [← hb] at hnext
    exact ht ▸ hnext

theorem inv_advance (h : Inv s) (ha : advance s = .next t) : Inv t := by
  rcases advance_next ha with ⟨hp, rfl⟩ | ⟨-, rfl⟩ | ⟨hs, g, hg, rfl⟩
  · have hsend : s.seq.ph.sending = false := by rw [hp]; rfl
    exact { h with
      sendingBusy := by simp [hsend]
      faultIdle := fun _ => rfl
      idleTimer := fun _ => rfl }
  · exact h
  · refine inv_moveOn (inv_emit h hs g) hs fun hp => ?_
    simp only [dueSegment, show s.seq.ph = .silence from hp, Option.some.injEq] at hg
    rw [← hg]
    rfl

theorem wf_storeAfter {m : Memory} (h : m.wf) (fate : StoreFate) (cfg : Cfg) : (storeAfter fate cfg m).wf := by
  cases fate with
  | kept => exact h
  | lost => exact wf_slotErase h _

/-- A reset ties `RC` to the slot by its load (rules R31, R212). -/
theorem codeTied_resetBlock (fate : StoreFate) (set : Settings) (s : State) :
    CodeTied (resetBlock fate set s) :=
  codeTied_loadRollingCode (resetRegisters set { s with nv := storeAfter fate s.cfg s.nv })

/-- A reset with settings inside the constraints enters the invariant; of the state before it only the form of
the store and the inputs still to come matter (rules R210, R211). -/
theorem inv_resetBlock {fate : StoreFate} {set : Settings} (hset : set.Ok) (hin : ∀ i ∈ s.inputs, inputOk i)
    (hnv : Memory.wf s.nv) : Inv (resetBlock fate set s) where
  cfgOk := hset
  inputsOk := hin
  nvWf := wf_storeAfter hnv fate s.cfg
  addrFixed := rfl
  cntLe := by simp [State.reset]
  bitLe := by simp [State.reset]
  frmLe := by simp [State.reset]
  sendingBusy := by simp [State.reset, Phase.sending]
  sendingSync := by simp [State.reset, Phase.sending]
  burstSync := by simp
  wakeFirst := by simp [State.reset]
  hwsyncCount := by simp [State.reset]
  standAlone := by simp [State.reset]
  faultHalt := by simp [State.reset]
  faultIdle := by simp
  faultCause := by simp
  noCause := by simp
  restLow := by simp
  idleTimer := by simp
  frameBuilt := by simp
  noCommand := by simp
  codeTied := codeTied_resetBlock fate set s

/-- Settles O58, by the five kinds of step. -/
theorem stepKeepsInvariant : Obligations.StepKeepsInvariant := by
  intro s t h hstep
  cases step_cases hstep with
  | rests rest hb hi ht =>
    have hrest : rest ⊆ s.inputs := by
      rcases hi with ⟨-, rfl⟩ | hi
      · simp
      · simp [hi]
    exact ht ▸ inv_withInputs h hrest
  | advances rest hb hi ha =>
    have hrest : rest ⊆ s.inputs := by
      rcases hi with ⟨-, rfl⟩ | hi
      · simp
      · simp [hi]
    exact inv_advance (inv_withInputs h hrest) ha
  | elapses rest hb hi hn ht => exact ht ▸ { inv_withInputs h (by simp [hi]) with idleTimer := by simp [hb] }
  | performs w i a rest hr hi ha hd he => exact inv_exec (inv_withInputs h (by simp [hi])) (decode_ne_sym hd) he
  | resets fate set rest hi ht =>
    have hok : ∀ i ∈ Input.reset fate set :: rest, inputOk i := hi ▸ h.inputsOk
    obtain ⟨hset, hrest⟩ := List.forall_mem_cons.1 hok
    exact ht ▸ inv_resetBlock hset hrest h.nvWf

end Sys2Proof.Machine
end

section
/-! Scope: the non-volatile store and LOAD and SAVE: what a step can do to the store, and what a read of the
slot gives (rules R42 to R44, R53, R90 to R94, R222). -/

namespace Sys2Proof.Machine

variable {s t : State}

/-! ### The store in a step -/

@[simp] theorem startFrame_nv (n : Nibble) (s : State) : (startFrame n s).nv = s.nv := rfl
@[simp] theorem manSymbol_nv (b : Bool) (s : State) : (manSymbol b s).nv = s.nv := rfl

/-- `t` is `s` with `v` written to the slot, as far as the store and the trace go (rule R44). -/
structure SlotWritten (v : Word) (s t : State) : Prop where
  nv : t.nv = slotWrite s.cfg.nvEndian s.nv (slotAddr s.cfg) v
  tr : t.tr = s.tr ++ [.nvWrite (slotAddr s.cfg) v]

/-- An operation leaves the store as it is or writes the block's own slot (rules R92, R94). -/
theorem exec_store {i : Instr} (h : exec i s = .next t) : t.nv = s.nv ∨ ∃ v, SlotWritten v s t := by
  cases exec_cases h with
  | moves c hi hr ht => exact .inr ⟨s.rc + 1, by simp [ht], by simp [ht]⟩
  | builds c hi hr ht => exact .inr ⟨s.rc + 1, by simp [ht], by simp [ht]⟩
  | raises n hi hr hn ht => simp [ht]
  | transmits n hi hr hn hv ht => simp [ht]
  | loads hi hr ht => simp [ht]
  | saves hi hr ht => exact .inr ⟨s.rc, by simp [ht], by simp [ht]⟩
  | sends b hi ht => simp [ht]

/-- A step leaves the store as it is, writes the slot, or is a reset with the slot lost (rules R53, R92, R94). -/
theorem step_store (h : step s = .next t) :
    t.nv = s.nv ∨ (∃ v, SlotWritten v s t) ∨
      ∃ set rest, s.inputs = .reset .lost set :: rest ∧ t.nv = slotErase s.nv (slotAddr s.cfg) := by
  cases step_cases h with
  | rests rest hb hi ht => simp [ht]
  | advances rest hb hi ha => exact .inl (advance_sameRecord ha).nv
  | elapses rest hb hi hn ht => simp [ht]
  | performs w i a rest hr hi ha hd he =>
    rcases exec_store he with hnv | ⟨v, hw⟩
    · exact .inl hnv
    · exact .inr (.inl ⟨v, hw.nv, hw.tr⟩)
  | resets fate set rest hi ht =>
    cases fate with
    | kept => exact .inl (by simp [ht, storeAfter])
    | lost => exact .inr (.inr ⟨set, rest, hi, by simp [ht, storeAfter]⟩)

theorem exists_reset_of_resetNext (h : resetNext s = true) :
    ∃ fate set rest, s.inputs = .reset fate set :: rest := by
  unfold resetNext at h
  split at h
  · exact ⟨_, _, _, ‹_›⟩
  · cases h

/-- No step moves the slot or changes its byte order: a reset brings settings only (rules R41, R48, R222). -/
theorem step_keeps_slot (h : step s = .next t) :
    slotAddr t.cfg = slotAddr s.cfg ∧ t.cfg.nvEndian = s.cfg.nvEndian := by
  obtain ⟨hkeep, hreset⟩ := addressAndConfigurationAreFixed s t h
  cases hn : resetNext s with
  | false => simp [(hkeep hn).2]
  | true =>
    obtain ⟨fate, set, rest, hi⟩ := exists_reset_of_resetNext hn
    simp [(hreset fate set rest hi).2]

/-- Settles O17: a write of the slot and its loss leave the bytes outside it, and the slot stays in place. -/
theorem storeChangesOnlyByWriteOrLoss : Obligations.StoreChangesOnlyByWriteOrLoss := by
  intro s t h
  have hslot := step_keeps_slot h
  have hread : slotOf t = slotRead s.cfg.nvEndian t.nv (slotAddr s.cfg) := by rw [slotOf, hslot.1, hslot.2]
  refine ⟨hslot, ?_⟩
  rcases step_store h with hnv | ⟨v, hnv, htr⟩ | ⟨set, rest, hi, hnv⟩
  · exact ⟨fun x _ => by rw [hnv], .inl hnv⟩
  · exact ⟨fun x hx => by rw [hnv, read_slotWrite_outside _ _ _ _ _ hx],
      .inr (.inl ⟨v, htr, by rw [hread, hnv, slotRead_slotWrite]⟩)⟩
  · exact ⟨fun x hx => by rw [hnv, read_slotErase_outside _ _ _ hx],
      .inr (.inr ⟨set, rest, hi, by rw [hread, hnv, slotRead_slotErase]⟩)⟩

/-! ### LOAD and SAVE -/

theorem exec_load (hr : Ready s) : exec .load s = .next (loadRollingCode s) := whenIdle_idle hr.1 hr.2

theorem exec_save (hr : Ready s) : exec .save s = .next (memWrite s.rc s) := whenIdle_idle hr.1 hr.2

/-- Settles O15: LOAD leaves what the read gave, and a read gives what its draw lets it. -/
theorem loadCompletes : Obligations.LoadCompletes :=
  fun s hr => ⟨memReadValue s, exec_load hr, memReadValue_drawn s⟩

/-- A load whose read succeeds leaves `RC` at the value the slot holds (rules R43, R90). -/
theorem loadRollingCode_rc_of_read {v : Word} (hv : slotOf s = some v) (hd : s.readDraws.head? = some false) :
    (loadRollingCode s).rc = v := by
  obtain ⟨-, hread, -⟩ := memReadValue_drawn s
  rw [loadRollingCode_rc, hread hd, hv, Option.getD_some]

/-- A reset that keeps the storage and whose read succeeds leaves `RC` at the value the slot holds (rule R212). -/
theorem resetBlock_rc_of_read {v : Word} (set : Settings) (hv : slotOf s = some v)
    (hd : s.readDraws.head? = some false) : (resetBlock .kept set s).rc = v :=
  loadRollingCode_rc_of_read (s := resetRegisters set s) hv hd

/-- Settles O18: SAVE writes `RC` to the slot and uses up no draw, and LOAD and reset share the load. -/
theorem savedCodeIsLoadedBack : Obligations.SavedCodeIsLoadedBack := by
  intro s d hr hdraws
  have hd : (memWrite s.rc s).readDraws.head? = some false := by simp [hdraws]
  have hv := slotOf_memWrite s.rc s
  refine ⟨memWrite s.rc s, exec_save hr, ⟨_, exec_load hr, loadRollingCode_rc_of_read hv hd⟩, fun set rest => ?_⟩
  exact ⟨_, step_reset rfl, resetBlock_rc_of_read set hv hd, hv⟩

end Sys2Proof.Machine
end

section
/-! Scope: encodings: the fields of an operation word, everything the decoder can answer, the encoder, and the
resolution of command names (rules R61 to R78). -/

namespace Sys2Proof.Machine

/-! ### The fields of an operation word -/

@[simp] theorem opwSel_mkOpw (sel arg : Nibble) : opwSel (mkOpw sel arg) = sel :=
  BitVec.extractLsb'_append_eq_left

@[simp] theorem opwArg_mkOpw (sel arg : Nibble) : opwArg (mkOpw sel arg) = arg :=
  BitVec.extractLsb'_append_eq_right

/-- A word is its selector and its argument, and nothing else (rule R62). -/
theorem mkOpw_fields (w : Byte) : mkOpw (opwSel w) (opwArg w) = w :=
  (BitVec.extractLsb'_append_extractLsb'_eq_extractLsb' rfl).trans BitVec.extractLsb'_eq_self

theorem mkOpw_eq_of_fields {sel arg : Nibble} {w : Byte} (hs : opwSel w = sel) (ha : opwArg w = arg) :
    mkOpw sel arg = w := by
  rw [← hs, ← ha, mkOpw_fields]

/-! ### The decoder -/

/-- The fields of a word that is refused as reserved (rules R63, R71). -/
abbrev ReservedFields (sel arg : Nibble) : Prop :=
  sel = 0 ∨ 6 ≤ sel.toNat ∨ ((sel = 4 ∨ sel = 5) ∧ arg ≠ 0)

/-- What is left of rule R63 when a word is no operation and its selector is not that of a command or of TX. -/
theorem reservedFields_of_ne {sel arg : Nibble} (h1 : sel ≠ 1) (h2 : sel ≠ 2) (h3 : sel ≠ 3)
    (h4 : sel = 4 → arg ≠ 0) (h5 : sel = 5 → arg ≠ 0) : ReservedFields sel arg := by
  by_cases hs4 : sel = 4
  · exact .inr (.inr ⟨.inl hs4, h4 hs4⟩)
  by_cases hs5 : sel = 5
  · exact .inr (.inr ⟨.inr hs5, h5 hs5⟩)
  have : sel = 0 ∨ 6 ≤ sel.toNat := by bv_omega
  exact this.imp_right .inl

theorem ReservedFields.sel_ne {sel arg : Nibble} (h : ReservedFields sel arg) : sel ≠ 1 ∧ sel ≠ 2 ∧ sel ≠ 3 := by
  refine ⟨?_, ?_, ?_⟩ <;> rintro rfl <;> simp [ReservedFields] at h

/-- Everything the decoder can answer, by the fields of the word (rules R63, R64, R70 to R72). -/
inductive DecodeCase (sel arg : Nibble) (r : Except Reject Instr) : Prop
  | moves (c : CommandCode) (hs : sel = 1) (ha : arg = c.code) (hr : r = .ok (moveInstr c))
  | builds (c : CommandCode) (hs : sel = 2) (ha : arg = c.code) (hr : r = .ok (buildInstr c))
  | transmitsFirst (hs : sel = 3) (ha : arg = 2) (hr : r = .ok .txFirst)
  | transmitsRepeat (hs : sel = 3) (ha : arg = 7) (hr : r = .ok .txRepeat)
  | invalidCount (hs : sel = 3) (h2 : arg ≠ 2) (h7 : arg ≠ 7) (hr : r = .ok (.txInvalid arg))
  | loads (hs : sel = 4) (ha : arg = 0) (hr : r = .ok .load)
  | saves (hs : sel = 5) (ha : arg = 0) (hr : r = .ok .save)
  | badCommand (hs : sel = 1 ∨ sel = 2) (ha : ∀ c : CommandCode, arg ≠ c.code) (hr : r = .error .badCommand)
  | reserved (hs : ReservedFields sel arg) (hr : r = .error .reservedWord)

/-- The decoder's answer to every word is one of these cases. -/
theorem decode_cases (w : Byte) : DecodeCase (opwSel w) (opwArg w) (decode w) := by
  have word : ∀ {sel arg}, opwSel w = sel → opwArg w = arg → w = mkOpw sel arg :=
    fun hs ha => (mkOpw_eq_of_fields hs ha).symm
  unfold decode
  refine iteInduction (by rintro rfl; exact .moves .my rfl rfl rfl) fun h11 => ?_
  refine iteInduction (by rintro rfl; exact .moves .up rfl rfl rfl) fun h12 => ?_
  refine iteInduction (by rintro rfl; exact .moves .down rfl rfl rfl) fun h14 => ?_
  refine iteInduction (by rintro rfl; exact .moves .program rfl rfl rfl) fun h18 => ?_
  refine iteInduction (by rintro rfl; exact .builds .my rfl rfl rfl) fun h21 => ?_
  refine iteInduction (by rintro rfl; exact .builds .up rfl rfl rfl) fun h22 => ?_
  refine iteInduction (by rintro rfl; exact .builds .down rfl rfl rfl) fun h24 => ?_
  refine iteInduction (by rintro rfl; exact .builds .program rfl rfl rfl) fun h28 => ?_
  refine iteInduction (by rintro rfl; exact .transmitsFirst rfl rfl rfl) fun h32 => ?_
  refine iteInduction (by rintro rfl; exact .transmitsRepeat rfl rfl rfl) fun h37 => ?_
  refine iteInduction (by rintro rfl; exact .loads rfl rfl rfl) fun h40 => ?_
  refine iteInduction (by rintro rfl; exact .saves rfl rfl rfl) fun h50 => ?_
  refine iteInduction (fun hs => ?_) fun h3 => iteInduction (fun hs => ?_) fun hcmd => ?_
  · exact .invalidCount hs (fun ha => h32 (word hs ha)) (fun ha => h37 (word hs ha)) rfl
  · refine .badCommand hs (fun c ha => ?_) rfl
    rcases hs with hs | hs
    · cases c with
      | my => exact h11 (word hs ha)
      | up => exact h12 (word hs ha)
      | down => exact h14 (word hs ha)
      | program => exact h18 (word hs ha)
    · cases c with
      | my => exact h21 (word hs ha)
      | up => exact h22 (word hs ha)
      | down => exact h24 (word hs ha)
      | program => exact h28 (word hs ha)
  · obtain ⟨h1, h2⟩ := not_or.1 hcmd
    exact .reserved (reservedFields_of_ne h1 h2 h3 (fun hs ha => h40 (word hs ha)) fun hs ha => h50 (word hs ha))
      rfl

/-- Rules R64, R72: the words of TX.INVALID. -/
theorem decode_eq_txInvalid_iff {w : Byte} {n : Nibble} :
    decode w = .ok (.txInvalid n) ↔ opwSel w = 3 ∧ opwArg w = n ∧ n ≠ 2 ∧ n ≠ 7 := by
  cases decode_cases w with
  | moves c hs ha hr => cases c <;> simp [hr, hs, moveInstr]
  | builds c hs ha hr => cases c <;> simp [hr, hs, buildInstr]
  | transmitsFirst hs ha hr => simp +contextual [hr, ha, eq_comm]
  | transmitsRepeat hs ha hr => simp +contextual [hr, ha, eq_comm]
  | invalidCount hs h2 h7 hr =>
    rw [hr]
    constructor
    · rintro ⟨⟩
      exact ⟨hs, rfl, h2, h7⟩
    · rintro ⟨-, rfl, -⟩
      rfl
  | loads hs ha hr => simp [hr, hs]
  | saves hs ha hr => simp [hr, hs]
  | badCommand hs ha hr => rcases hs with hs | hs <;> simp [hr, hs]
  | reserved hs hr =>
    obtain ⟨-, -, h3⟩ := hs.sel_ne
    exact iff_of_false (by simp [hr]) fun h => h3 h.1

/-- Rule R70: the words refused for their argument. -/
theorem decode_eq_badCommand_iff {w : Byte} :
    decode w = .error .badCommand ↔ (opwSel w = 1 ∨ opwSel w = 2) ∧ ∀ c : CommandCode, opwArg w ≠ c.code := by
  cases decode_cases w with
  | moves c hs ha hr => simp [hr, ha]
  | builds c hs ha hr => simp [hr, ha]
  | transmitsFirst hs ha hr => simp [hr, hs]
  | transmitsRepeat hs ha hr => simp [hr, hs]
  | invalidCount hs h2 h7 hr => simp [hr, hs]
  | loads hs ha hr => simp [hr, hs]
  | saves hs ha hr => simp [hr, hs]
  | badCommand hs ha hr => exact iff_of_true hr ⟨hs, ha⟩
  | reserved hs hr =>
    obtain ⟨h1, h2, -⟩ := hs.sel_ne
    exact iff_of_false (by simp [hr]) fun h => h.1.elim h1 h2

/-- Rule R71: the words refused as reserved. -/
theorem decode_eq_reservedWord_iff {w : Byte} :
    decode w = .error .reservedWord ↔ ReservedFields (opwSel w) (opwArg w) := by
  cases decode_cases w with
  | moves c hs ha hr => simp [hr, hs]
  | builds c hs ha hr => simp [hr, hs]
  | transmitsFirst hs ha hr => simp [hr, hs]
  | transmitsRepeat hs ha hr => simp [hr, hs]
  | invalidCount hs h2 h7 hr => simp [hr, hs]
  | loads hs ha hr => simp [hr, hs, ha]
  | saves hs ha hr => simp [hr, hs, ha]
  | badCommand hs ha hr => rcases hs with hs | hs <;> simp [hr, hs]
  | reserved hs hr => exact iff_of_true hr hs

/-- The four command codes written out (rule R61). -/
theorem forall_ne_code_iff {arg : Nibble} :
    (∀ c : CommandCode, arg ≠ c.code) ↔ arg ≠ 1 ∧ arg ≠ 2 ∧ arg ≠ 4 ∧ arg ≠ 8 := by
  refine ⟨fun h => ⟨h .my, h .up, h .down, h .program⟩, ?_⟩
  rintro ⟨h1, h2, h4, h8⟩ (_ | _ | _ | _)
  exacts [h1, h2, h4, h8]

/-- Settles O2: the cases of the decoder exclude each other; the count is over the 256 words. -/
theorem decoderClassifiesEveryWord : Obligations.DecoderClassifiesEveryWord := by
  refine ⟨fun w n => decode_eq_txInvalid_iff, fun w => ?_, fun w => decode_eq_reservedWord_iff, by decide +kernel⟩
  rw [decode_eq_badCommand_iff, forall_ne_code_iff]
  rfl

/-- Settles O1, by evaluating the decoder on the sixteen codes. -/
theorem writtenOutWordsDecode : Obligations.WrittenOutWordsDecode := by
  unfold Obligations.WrittenOutWordsDecode
  decide

/-! ### The encoder -/

theorem wellFormed_txInvalid {n : Nibble} : (Instr.txInvalid n).wellFormed = true ↔ n ≠ 2 ∧ n ≠ 7 := by
  simp [Instr.wellFormed, Config.nSyncFirst, Config.nSyncRepeat]

@[simp] theorem wellFormed_moveInstr (c : CommandCode) : (moveInstr c).wellFormed = true := by cases c <;> rfl

@[simp] theorem wellFormed_buildInstr (c : CommandCode) : (buildInstr c).wellFormed = true := by cases c <;> rfl

@[simp] theorem encode_moveInstr (c : CommandCode) : encode (moveInstr c) = .opw (mkOpw 1 c.code) := by
  cases c <;> rfl

@[simp] theorem encode_buildInstr (c : CommandCode) : encode (buildInstr c) = .opw (mkOpw 2 c.code) := by
  cases c <;> rfl

/-- Decoding an encoding: only the sync count of TX.INVALID can be wrong (rules R64, R68). -/
theorem decodeCode_encode {i : Instr} (hi : i.wellFormed = true) : decodeCode (encode i) = .ok i := by
  cases i with
  | txInvalid n => exact decode_eq_txInvalid_iff.2 ⟨opwSel_mkOpw 3 n, opwArg_mkOpw 3 n, wellFormed_txInvalid.1 hi⟩
  | _ => rfl

/-- An operation word that decodes is the encoding of a well-formed instruction. -/
theorem encode_of_decode {w : Byte} {i : Instr} (h : decode w = .ok i) :
    i.wellFormed = true ∧ encode i = .opw w := by
  have word : ∀ {sel arg}, opwSel w = sel → opwArg w = arg → Code.opw (mkOpw sel arg) = .opw w :=
    fun hs ha => congrArg Code.opw (mkOpw_eq_of_fields hs ha)
  cases decode_cases w with
  | moves c hs ha hr =>
    cases h.symm.trans hr
    exact ⟨wellFormed_moveInstr c, (encode_moveInstr c).trans (word hs ha)⟩
  | builds c hs ha hr =>
    cases h.symm.trans hr
    exact ⟨wellFormed_buildInstr c, (encode_buildInstr c).trans (word hs ha)⟩
  | transmitsFirst hs ha hr => cases h.symm.trans hr; exact ⟨rfl, word hs ha⟩
  | transmitsRepeat hs ha hr => cases h.symm.trans hr; exact ⟨rfl, word hs ha⟩
  | invalidCount hs h2 h7 hr =>
    cases h.symm.trans hr
    exact ⟨wellFormed_txInvalid.2 ⟨h2, h7⟩, word hs rfl⟩
  | loads hs ha hr => cases h.symm.trans hr; exact ⟨rfl, word hs ha⟩
  | saves hs ha hr => cases h.symm.trans hr; exact ⟨rfl, word hs ha⟩
  | badCommand hs ha hr => cases h.symm.trans hr
  | reserved hs hr => cases h.symm.trans hr

/-- Settles O3: by the instruction in one direction, by the cases of the decoder in the other. -/
theorem encodeDecodeRoundTrip : Obligations.EncodeDecodeRoundTrip := by
  refine ⟨fun i => decodeCode_encode, fun c i h => ?_⟩
  cases c with
  | opw w => exact encode_of_decode h
  | sym b => cases b <;> cases h <;> exact ⟨rfl, rfl⟩

/-! ### Command names -/

/-- A first byte that is none of the six letters names MY (rule R76). -/
theorem resolve_cons_of_ne {c : Byte} (text : List Byte) (hU : c ≠ 0x55) (hu : c ≠ 0x75) (hD : c ≠ 0x44)
    (hd : c ≠ 0x64) (hP : c ≠ 0x50) (hp : c ≠ 0x70) : resolve (c :: text) = .my :=
  calc resolve (c :: text)
    _ = _ := if_neg (not_or.2 ⟨hU, hu⟩)
    _ = _ := if_neg (not_or.2 ⟨hD, hd⟩)
    _ = .my := if_neg (not_or.2 ⟨hP, hp⟩)

/-- The word of a named move, from the table of selectors (rules R63, R77). -/
theorem moveWord_eq_or (text : List Byte) : moveWord text = 0x10 ||| (resolve text).code.setWidth 8 := by
  unfold moveWord
  cases resolve text <;> rfl

/-- Settles O4: the first byte decides by the tests of rule R76 in their order. -/
theorem commandTextResolves : Obligations.CommandTextResolves := by
  refine ⟨rfl, fun c text => ⟨?_, ?_, ?_, resolve_cons_of_ne text⟩,
    fun text => ⟨decode_moveWord text, moveWord_eq_or text⟩⟩
  · rintro (rfl | rfl) <;> rfl
  · rintro (rfl | rfl) <;> rfl
  · rintro (rfl | rfl) <;> rfl

/-! ### The word on the request port -/

variable {s : State}

/-- An idle block takes the word a waiting host presents (rule R215). -/
theorem step_opw {w : Byte} {rest : List Input} (hi : s.inputs = .opw w :: rest) (hb : s.busy = false) :
    step s = present w { s with inputs := rest } := by
  simp [step, hi, takeInput, hb]

/-- A row of eight bits is read by the decoder of operation words (rules R62, R74). -/
theorem decode_of_decodeTableWord {w : Nat} {i : Instr} (h : decodeTableWord 8 w = some i) :
    decode (BitVec.ofNat 8 w) = .ok i := by
  by_cases hw : 256 ≤ w
  · simp [decodeTableWord, hw] at h
  cases hd : decode (BitVec.ofNat 8 w) with
  | error r => simp [decodeTableWord, hw, hd, Except.toOption] at h
  | ok j => simpa [decodeTableWord, hw, hd, Except.toOption] using h

/-- Settles O45: the block takes the word placed at the head of its inputs, which leaves the state itself. -/
theorem fetchedWordIsPerformed : Obligations.FetchedWordIsPerformed := by
  intro s w i ⟨hf, hb⟩ hd
  exact (step_opw (s := putWord (BitVec.ofNat 8 w) s) rfl hb).trans
    (present_ok hf hb (decode_of_decodeTableWord hd))

end Sys2Proof.Machine
end

section
/-! Scope: the rolling-code store: what SAVE leaves, and the frame of every operation (rules R44, R90, R91, R100,
R130, R140, R160). -/

namespace Sys2Proof.Machine

variable {s t : State}

/-! ### SAVE -/

/-- A write of the slot leaves every byte outside it (rule R44). -/
theorem SlotWritten.read_outside {v : Word} (h : SlotWritten v s t) {x : Nat}
    (hx : x < slotAddr s.cfg ∨ slotAddr s.cfg + 4 ≤ x) : t.nv.read x = s.nv.read x := by
  rw [h.nv, read_slotWrite_outside _ _ _ _ _ hx]

theorem slotWritten_memWrite (v : Word) (s : State) : SlotWritten v s (memWrite v s) := ⟨rfl, rfl⟩

/-- Settles O16: on a ready block SAVE is the write of `RC` to the slot. -/
theorem saveCompletes : Obligations.SaveCompletes := fun s hr =>
  ⟨memWrite s.rc s, exec_save hr, rfl, slotOf_memWrite s.rc s,
    fun _ hx => (slotWritten_memWrite s.rc s).read_outside hx⟩

/-! ### The frame of every operation -/

section startFrame
variable (n : Nibble) (s : State)
@[simp] theorem startFrame_f : (startFrame n s).f = s.f := rfl
@[simp] theorem startFrame_fv : (startFrame n s).fv = s.fv := rfl
@[simp] theorem startFrame_cmd : (startFrame n s).cmd = s.cmd := rfl
@[simp] theorem startFrame_rc : (startFrame n s).rc = s.rc := rfl
@[simp] theorem startFrame_line : (startFrame n s).line = s.line := rfl
@[simp] theorem startFrame_timer : (startFrame n s).timer = s.timer := rfl
@[simp] theorem startFrame_fcause : (startFrame n s).fcause = s.fcause := rfl
@[simp] theorem startFrame_finfo : (startFrame n s).finfo = s.finfo := rfl
end startFrame

section manSymbol
variable (b : Bool) (s : State)
@[simp] theorem manSymbol_f : (manSymbol b s).f = s.f := rfl
@[simp] theorem manSymbol_fv : (manSymbol b s).fv = s.fv := rfl
@[simp] theorem manSymbol_cmd : (manSymbol b s).cmd = s.cmd := rfl
@[simp] theorem manSymbol_rc : (manSymbol b s).rc = s.rc := rfl
@[simp] theorem manSymbol_fcause : (manSymbol b s).fcause = s.fcause := rfl
@[simp] theorem manSymbol_finfo : (manSymbol b s).finfo = s.finfo := rfl
end manSymbol

/-- Only MOVE and BUILD make a frame; of the others only LOAD writes `RC` and only SAVE the store (rules R90,
R91, R100, R160). -/
theorem exec_keeps_frame {i : Instr} (h : exec i s = .next t) (hi : ∀ c, i ≠ moveInstr c ∧ i ≠ buildInstr c) :
    (t.f = s.f ∧ t.fv = s.fv ∧ t.cmd = s.cmd) ∧ (i ≠ .load → t.rc = s.rc) ∧ (i ≠ .save → t.nv = s.nv) := by
  cases exec_cases h with
  | moves c he => exact absurd he (hi c).1
  | builds c he => exact absurd he (hi c).2
  | raises n he hr hn ht => simp [ht]
  | transmits n he hr hn hv ht => simp [ht]
  | loads he hr ht => simp [ht, he]
  | saves he hr ht => simp [ht, he]
  | sends b he ht => simp [ht]

/-- No operation writes a byte outside the block's own slot (rule R92). -/
theorem exec_keeps_read_outside {i : Instr} (h : exec i s = .next t) {x : Nat}
    (hx : x < slotAddr s.cfg ∨ slotAddr s.cfg + 4 ≤ x) : t.nv.read x = s.nv.read x := by
  rcases exec_store h with hnv | ⟨v, hw⟩
  · rw [hnv]
  · exact hw.read_outside hx

/-- Only MAN.0 and MAN.1 drive the line and start a wait: TX and MOVE do so in their later steps (rules R121, R122,
R141). -/
theorem exec_keeps_line_timer {i : Instr} (h : exec i s = .next t) (h0 : i ≠ .man0) (h1 : i ≠ .man1) :
    t.line = s.line ∧ t.timer = s.timer := by
  cases exec_cases h with
  | moves c hi hr ht => simp [ht]
  | builds c hi hr ht => simp [ht]
  | raises n hi hr hn ht => simp [ht]
  | transmits n hi hr hn hv ht => simp [ht]
  | loads hi hr ht => simp [ht]
  | saves hi hr ht => simp [ht]
  | sends b hi =>
    cases b with
    | false => exact absurd hi h0
    | true => exact absurd hi h1

/-- Only TX.INVALID writes the fault registers (rules R140, R185). -/
theorem exec_keeps_fault {i : Instr} (h : exec i s = .next t) (hi : ∀ n, i ≠ .txInvalid n) :
    t.fault = s.fault ∧ t.fcause = s.fcause ∧ t.finfo = s.finfo := by
  cases exec_cases h with
  | raises n he => exact absurd he (hi n)
  | moves c he hr ht => simp [ht]
  | builds c he hr ht => simp [ht]
  | transmits n he hr hn hv ht => simp [ht]
  | loads he hr ht => simp [ht]
  | saves he hr ht => simp [ht]
  | sends b he ht => simp [ht]

/-- Settles O54, clause by clause: which operations write a group of fields is read off the effect of each. -/
theorem operationFrames : Obligations.OperationFrames := by
  intro i s t h
  refine ⟨exec_keeps_addr_cfg_inputs h, fun hi => ?_, fun hi => ?_, fun hi hs x => ?_,
    fun _ hx => exec_keeps_read_outside h hx, exec_keeps_line_timer h, exec_keeps_fault h⟩
  all_goals obtain ⟨hframe, hrc, hnv⟩ := exec_keeps_frame h hi
  · exact hframe
  · exact hrc
  · rw [hnv hs]

end Sys2Proof.Machine
end

section
/-! Scope: the frame builder: the key byte, the fields of the plain frame and its checksum, obfuscation and its
inverse, and what a frame determines (rules R101 to R119). -/

namespace Sys2Proof.Machine

/-! ### A byte as two nibbles -/

/-- A byte with a zero low nibble takes one in by OR, as steps 1 and 5 do (rules R102, R106). -/
theorem append_zero_or_setWidth (h n : Nibble) : (h ++ (0 : Nibble)) ||| n.setWidth 8 = h ++ n := by
  rw [BitVec.setWidth_eq_append (by decide), BitVec.cast_eq, BitVec.or_append]
  simp

theorem and_low_nibble (b : Byte) : b &&& 0xF = (b.extractLsb' 0 4).setWidth 8 := by
  revert b
  decide

/-! ### The key byte -/

/-- Subtracting the offset 8 adds 8 in the low nibble (rule R102). -/
theorem low_nibble_sub_keyDynOffset (rc : Word) :
    ((rc - Config.keyDynOffset) &&& 0xF).setWidth 8 = (rc.extractLsb' 0 4 + 8).setWidth 8 := by
  apply BitVec.eq_of_toNat_eq
  have mask : ∀ x : Nat, x &&& 15 = x % 16 := fun x => Nat.and_two_pow_sub_one_eq_mod x 4
  simp only [Config.keyDynOffset, BitVec.ofNat_eq_ofNat, BitVec.toNat_setWidth, BitVec.toNat_and, BitVec.toNat_sub,
    BitVec.toNat_add, BitVec.extractLsb'_toNat, BitVec.toNat_ofNat, Nat.reducePow, Nat.reduceMod, Nat.shiftRight_zero,
    mask]
  omega

/-- Rule R102 -/
theorem keyByte_dynamic (rc : Word) : keyByte .dynamic rc = (0xA : Nibble) ++ (rc.extractLsb' 0 4 + 8) := by
  have base : Config.keyDynBase = (0xA : Nibble) ++ (0 : Nibble) := rfl
  rw [keyByte, low_nibble_sub_keyDynOffset, base, append_zero_or_setWidth]

/-- The high nibble of the key byte is 0xA in both modes (rules R101, R102). -/
theorem keyByte_high (m : KeyMode) (rc : Word) : (keyByte m rc).extractLsb' 4 4 = 0xA := by
  cases m with
  | fixed =>
    have fixed : Config.keyFixed.extractLsb' 4 4 = 0xA := by decide
    exact fixed
  | dynamic => rw [keyByte_dynamic, BitVec.extractLsb'_append_eq_left]

theorem plainFrame_f0 (m : KeyMode) (addr : BitVec 24) (rc : Word) (c : CommandCode) :
    (plainFrame m addr rc c).f0 = keyByte m rc := rfl

theorem nibble_add_eight (n : Nibble) : n + 8 = n ^^^ 0b1000 := by
  revert n
  decide

/-- Settles O5, from the key byte written as two nibbles. -/
theorem keyByteOfEachMode : Obligations.KeyByteOfEachMode := by
  intro addr rc c
  have low : (keyByte .dynamic rc).extractLsb' 0 4 = rc.extractLsb' 0 4 + 8 := by
    rw [keyByte_dynamic, BitVec.extractLsb'_append_eq_right]
  refine ⟨rfl, rfl, keyByte_high .dynamic rc, low, low.trans (nibble_add_eight _), ?_⟩
  rw [plainFrame_f0, keyByte_dynamic]
  generalize rc.extractLsb' 0 4 = n
  revert n
  decide

/-! ### The fields of the plain frame -/

section plainFrame
variable (m : KeyMode) (addr : BitVec 24) (rc : Word) (c : CommandCode)

/-- Rule R103 -/
theorem commandByte_eq : commandByte c = c.code ++ (0 : Nibble) := by
  cases c <;> rfl

/-- Rule R104: bytes 2 and 3 are the low half of the rolling code. -/
theorem plainFrame_rc : (plainFrame m addr rc c).f2 ++ (plainFrame m addr rc c).f3 = rc.extractLsb' 0 16 :=
  BitVec.extractLsb'_append_extractLsb'_eq_extractLsb' rfl

/-- Rule R105: bytes 4 to 6 are the address. -/
theorem plainFrame_addr :
    (plainFrame m addr rc c).f4 ++ ((plainFrame m addr rc c).f5 ++ (plainFrame m addr rc c).f6) = addr := by
  have low : addr.extractLsb' 8 8 ++ addr.extractLsb' 0 8 = addr.extractLsb' 0 16 :=
    BitVec.extractLsb'_append_extractLsb'_eq_extractLsb' rfl
  have all : addr.extractLsb' 16 8 ++ addr.extractLsb' 0 16 = addr.extractLsb' 0 24 :=
    BitVec.extractLsb'_append_extractLsb'_eq_extractLsb' rfl
  change addr.extractLsb' 16 8 ++ (addr.extractLsb' 8 8 ++ addr.extractLsb' 0 8) = addr
  rw [low, all, BitVec.extractLsb'_eq_self]

end plainFrame

/-- Rolling codes with equal low halves have the same key byte (rules R101, R102). -/
theorem keyByte_congr (m : KeyMode) {rc rc' : Word} (h : rc'.extractLsb' 0 16 = rc.extractLsb' 0 16) :
    keyByte m rc' = keyByte m rc := by
  cases m with
  | fixed => rfl
  | dynamic =>
    have low : rc'.extractLsb' 0 4 = rc.extractLsb' 0 4 := by
      simpa using congrArg (BitVec.extractLsb' 0 4) h
    rw [keyByte_dynamic, keyByte_dynamic, low]

/-- `RC[31:16]` does not enter the frame (rule R104). -/
theorem frameOf_congr (m : KeyMode) (addr : BitVec 24) (c : CommandCode) {rc rc' : Word}
    (h : rc'.extractLsb' 0 16 = rc.extractLsb' 0 16) : frameOf m addr rc' c = frameOf m addr rc c := by
  have high : rc'.extractLsb' 8 8 = rc.extractLsb' 8 8 := by simpa using congrArg (BitVec.extractLsb' 8 8) h
  have low : rc'.extractLsb' 0 8 = rc.extractLsb' 0 8 := by simpa using congrArg (BitVec.extractLsb' 0 8) h
  have raw : rawFrame m addr rc' c = rawFrame m addr rc c := by
    simp only [rawFrame, keyByte_congr m h, high, low]
  simp only [frameOf, plainFrame, raw]

theorem low_half_add_65536 (rc : Word) : (rc + 65536).extractLsb' 0 16 = rc.extractLsb' 0 16 := by
  apply BitVec.eq_of_toNat_eq
  simp

/-- Settles O6: the fields stand where the builder puts them, and only the low half of `RC` is read. -/
theorem plainFrameFields : Obligations.PlainFrameFields := by
  intro m addr rc c
  exact ⟨commandByte_eq c, rfl, rfl, rfl, rfl, rfl, rfl, rfl, rfl, rfl, fun _ => frameOf_congr m addr c,
    frameOf_congr m addr c (low_half_add_65536 rc), by bv_omega⟩

/-! ### The checksum -/

/-- The XOR of the two nibbles of a byte. -/
def nibbleFold (b : Byte) : Nibble := b.extractLsb' 4 4 ^^^ b.extractLsb' 0 4

theorem nibbleFold_append (h n : Nibble) : nibbleFold (h ++ n) = h ^^^ n := by
  rw [nibbleFold, BitVec.extractLsb'_append_eq_left, BitVec.extractLsb'_append_eq_right]

theorem nibbleXor_eq_folds (p : Frame) :
    nibbleXor p = nibbleFold p.f0 ^^^ nibbleFold p.f1 ^^^ nibbleFold p.f2 ^^^ nibbleFold p.f3 ^^^
      nibbleFold p.f4 ^^^ nibbleFold p.f5 ^^^ nibbleFold p.f6 := by
  simp only [nibbleXor, nibbleFold, BitVec.xor_assoc]

theorem nibbleTerm_low (b : Byte) : (nibbleTerm b).extractLsb' 0 4 = nibbleFold b := by
  revert b
  decide

/-- The checksum of rule R106, with its shifts and its mask, is the XOR of the fourteen nibbles. -/
theorem checksum_eq_nibbleXor (p : Frame) : checksum p = (nibbleXor p).setWidth 8 := by
  simp only [checksum, and_low_nibble, BitVec.extractLsb'_xor, nibbleTerm_low, nibbleXor_eq_folds]

section plainFrame
variable (m : KeyMode) (addr : BitVec 24) (rc : Word) (c : CommandCode)

/-- Byte 1 of the plain frame: the command, then the checksum (rules R103, R106). -/
theorem plainFrame_f1 : (plainFrame m addr rc c).f1 = c.code ++ nibbleXor (rawFrame m addr rc c) := by
  change commandByte c ||| checksum (rawFrame m addr rc c) = _
  rw [commandByte_eq, checksum_eq_nibbleXor, append_zero_or_setWidth]

theorem plainFrame_command : (plainFrame m addr rc c).f1.extractLsb' 4 4 = c.code := by
  rw [plainFrame_f1, BitVec.extractLsb'_append_eq_left]

theorem plainFrame_checksum :
    (plainFrame m addr rc c).f1.extractLsb' 0 4 = nibbleXor (rawFrame m addr rc c) := by
  rw [plainFrame_f1, BitVec.extractLsb'_append_eq_right]

end plainFrame

/-- Settles O7: the checksum step writes the low nibble of byte 1, which was zero. -/
theorem checksumNibble : Obligations.ChecksumNibble := fun m addr rc c =>
  ⟨plainFrame_command m addr rc c, plainFrame_checksum m addr rc c, rfl, rfl, rfl, rfl, rfl, rfl⟩

/-- A nibble put where a zero stood is XORed into the XOR of all nibbles. -/
theorem nibbleXor_set_low {p : Frame} {h : Nibble} (hp : p.f1 = h ++ (0 : Nibble)) (n : Nibble) :
    nibbleXor { p with f1 := h ++ n } = nibbleXor p ^^^ n := by
  simp only [nibbleXor_eq_folds, hp, nibbleFold_append]
  ac_rfl

/-- Rule R107: the XOR of the nibbles, put among them, makes their XOR zero. -/
theorem nibbleXor_plainFrame (m : KeyMode) (addr : BitVec 24) (rc : Word) (c : CommandCode) :
    nibbleXor (plainFrame m addr rc c) = 0 := by
  have plain : plainFrame m addr rc c =
      { rawFrame m addr rc c with f1 := c.code ++ nibbleXor (rawFrame m addr rc c) } := by
    rw [← plainFrame_f1]
    rfl
  rw [plain, nibbleXor_set_low (commandByte_eq c), BitVec.xor_self]
  rfl

/-- Settles O8; the obfuscated vector of rule R113 has the XOR 0xD. -/
theorem checksumInvariant : Obligations.ChecksumInvariant := ⟨nibbleXor_plainFrame, by decide⟩

/-! ### Obfuscation -/

section obfuscate
variable (p : Frame)

theorem obfuscate_f0 : (obfuscate p).f0 = p.f0 := rfl
theorem obfuscate_f1 : (obfuscate p).f1 = p.f1 ^^^ (obfuscate p).f0 := rfl
theorem obfuscate_f2 : (obfuscate p).f2 = p.f2 ^^^ (obfuscate p).f1 := rfl
theorem obfuscate_f3 : (obfuscate p).f3 = p.f3 ^^^ (obfuscate p).f2 := rfl
theorem obfuscate_f4 : (obfuscate p).f4 = p.f4 ^^^ (obfuscate p).f3 := rfl
theorem obfuscate_f5 : (obfuscate p).f5 = p.f5 ^^^ (obfuscate p).f4 := rfl
theorem obfuscate_f6 : (obfuscate p).f6 = p.f6 ^^^ (obfuscate p).f5 := rfl

/-- XOR with a known predecessor undoes itself, byte by byte (rule R109). -/
@[simp] theorem deobfuscate_obfuscate : deobfuscate (obfuscate p) = p := by
  simp [deobfuscate, obfuscate]

@[simp] theorem obfuscate_deobfuscate : obfuscate (deobfuscate p) = p := by
  simp [deobfuscate, obfuscate]

end obfuscate

theorem obfuscate_bijective : Function.Bijective obfuscate :=
  Function.bijective_iff_has_inverse.2 ⟨deobfuscate, deobfuscate_obfuscate, obfuscate_deobfuscate⟩

/-- Settles O9: each closed form follows from the one before it by the recursion. -/
theorem obfuscationIsRunningXor : Obligations.ObfuscationIsRunningXor := by
  refine ⟨fun p => ?_, obfuscate_bijective⟩
  have h1 : (obfuscate p).f1 = p.f0 ^^^ p.f1 := by rw [obfuscate_f1, obfuscate_f0, BitVec.xor_comm]
  have h2 : (obfuscate p).f2 = p.f0 ^^^ p.f1 ^^^ p.f2 := by rw [obfuscate_f2, h1, BitVec.xor_comm]
  have h3 : (obfuscate p).f3 = p.f0 ^^^ p.f1 ^^^ p.f2 ^^^ p.f3 := by rw [obfuscate_f3, h2, BitVec.xor_comm]
  have h4 : (obfuscate p).f4 = p.f0 ^^^ p.f1 ^^^ p.f2 ^^^ p.f3 ^^^ p.f4 := by
    rw [obfuscate_f4, h3, BitVec.xor_comm]
  have h5 : (obfuscate p).f5 = p.f0 ^^^ p.f1 ^^^ p.f2 ^^^ p.f3 ^^^ p.f4 ^^^ p.f5 := by
    rw [obfuscate_f5, h4, BitVec.xor_comm]
  have h6 : (obfuscate p).f6 = p.f0 ^^^ p.f1 ^^^ p.f2 ^^^ p.f3 ^^^ p.f4 ^^^ p.f5 ^^^ p.f6 := by
    rw [obfuscate_f6, h5, BitVec.xor_comm]
  exact ⟨rfl, rfl, rfl, rfl, rfl, rfl, rfl, h1, h2, h3, h4, h5, h6⟩

/-- Settles O10: the two transforms are inverse to each other. -/
theorem deobfuscationInverts : Obligations.DeobfuscationInverts :=
  ⟨fun _ => ⟨rfl, rfl, rfl, rfl, rfl, rfl, rfl⟩, deobfuscate_obfuscate, obfuscate_deobfuscate⟩

/-! ### The transmitted frame -/

theorem code_injective : Function.Injective CommandCode.code := by
  intro c d
  cases c <;> cases d <;> decide

/-- Settles O11: the fields are read back from the plain frame, which the transmitted one determines. -/
theorem frameIsInjective : Obligations.FrameIsInjective := by
  intro m addr addr' rc rc' c c' h
  have plain : plainFrame m addr rc c = plainFrame m addr' rc' c' := obfuscate_bijective.injective h
  refine ⟨?_, ?_, code_injective ?_⟩
  · rw [← plainFrame_addr m addr rc c, plain, plainFrame_addr]
  · rw [← plainFrame_rc m addr rc c, plain, plainFrame_rc]
  · rw [← plainFrame_command m addr rc c, plain, plainFrame_command]

theorem frameOf_f0_high (m : KeyMode) (addr : BitVec 24) (rc : Word) (c : CommandCode) :
    (frameOf m addr rc c).f0.extractLsb' 4 4 = 0xA := keyByte_high m rc

/-- Settles O12: bit 7 of byte 0 is the top bit of its high nibble, which is 0xA. -/
theorem firstDataBitIsOne : Obligations.FirstDataBitIsOne := by
  intro cfg m addr rc c
  have top : (frameOf m addr rc c).f0.getLsbD 7 = true := by
    have := congrArg (BitVec.getLsbD · 3) (frameOf_f0_high m addr rc c)
    simpa using this
  have fetched : dataBit (frameOf m addr rc c) 0 = some ((frameOf m addr rc c).f0.getLsbD 7) := rfl
  have segment : (dataSegs cfg (frameOf m addr rc c)).head? =
      some (!(frameOf m addr rc c).f0.getLsbD 7, cfg.symbol) := rfl
  exact ⟨top, by rw [fetched, top], by rw [segment, top]; rfl⟩

/-- Settles O13: the builder evaluated on the vectors of the source. -/
theorem sourceFrameVectors : Obligations.SourceFrameVectors := ⟨rfl, rfl, rfl, rfl, rfl⟩

/-- Settles O60: the invariant says that the registers hold a built frame, and the receiver's check holds of it. -/
theorem heldFramePassesReceiverCheck : Obligations.HeldFramePassesReceiverCheck := by
  intro s h hv
  obtain ⟨rc, c, hframe, -⟩ := h.frameBuilt hv
  rw [hframe]
  refine ⟨?_, frameOf_f0_high _ _ rc c⟩
  rw [frameOf, deobfuscate_obfuscate, checksum_eq_nibbleXor, nibbleXor_plainFrame]
  rfl

end Sys2Proof.Machine
end

section
/-! Scope: the rolling code in BUILD, in a step and in a run with restarts (rules R100, R110, R111, R117, R212,
R222). -/

namespace Sys2Proof.Machine

variable {s t : State}

/-! ### BUILD -/

theorem exec_buildInstr (c : CommandCode) (hr : Ready s) : exec (buildInstr c) s = .next (buildFrame c s) := by
  obtain ⟨hf, hb⟩ := hr
  cases c <;> exact whenIdle_idle hf hb

theorem slotWritten_buildFrame (c : CommandCode) (s : State) : SlotWritten (s.rc + 1) s (buildFrame c s) :=
  ⟨rfl, rfl⟩

/-- Settles O14: on a ready block BUILD is `buildFrame`, whose only write of the store is that of the slot. -/
theorem buildCompletes : Obligations.BuildCompletes := fun c s hr =>
  ⟨buildFrame c s, exec_buildInstr c hr, rfl, slotOf_buildFrame c s,
    fun _ hx => (slotWritten_buildFrame c s).read_outside hx⟩

/-! ### A step -/

/-- Rule R117 for one step: the slot holds `RC` after it, and `RC` stays or is one more with a frame of the old
code in the registers. -/
structure CodeAdvances (s t : State) : Prop where
  tied : slotOf t = some t.rc
  rc : t.rc = s.rc ∨ (t.rc.toNat = s.rc.toNat + 1 ∧ t.fv = true ∧
    ∃ c : CommandCode, t.f = frameOf s.cfg.keyMode s.addr s.rc c ∧ t.cmd = c.code)

theorem slotOf_congr (hcfg : t.cfg = s.cfg) (hnv : t.nv = s.nv) : slotOf t = slotOf s := by
  rw [slotOf, hcfg, hnv, slotOf]

/-- What writes neither the configuration, the store nor `RC` keeps the slot tied. -/
theorem codeAdvances_of_same (hv : slotOf s = some s.rc) (hcfg : t.cfg = s.cfg) (hnv : t.nv = s.nv)
    (hrc : t.rc = s.rc) : CodeAdvances s t where
  tied := by rw [slotOf_congr hcfg hnv, hv, hrc]
  rc := .inl hrc

/-- Below its last value `RC` does not wrap (rule R110). -/
theorem rc_succ_toNat {rc : Word} (h : rc ≠ 0xFFFFFFFF) : (rc + 1).toNat = rc.toNat + 1 := by bv_omega

theorem codeAdvances_buildFrame (c : CommandCode) (hrc : s.rc ≠ 0xFFFFFFFF) : CodeAdvances s (buildFrame c s) where
  tied := slotOf_buildFrame c s
  rc := .inr ⟨rc_succ_toNat hrc, rfl, c, rfl, rfl⟩

/-- An operation advances the code if it is MOVE or BUILD, and a load gives back what the slot holds. -/
theorem codeAdvances_of_exec {i : Instr} (h : exec i s = .next t) (hv : slotOf s = some s.rc)
    (hrc : s.rc ≠ 0xFFFFFFFF) (hd : s.readDraws.head? = some false) : CodeAdvances s t := by
  cases exec_cases h with
  | moves c hi hr ht =>
    obtain ⟨tied, rc⟩ := codeAdvances_buildFrame c hrc
    exact ht ▸ ⟨tied, rc⟩
  | builds c hi hr ht => exact ht ▸ codeAdvances_buildFrame c hrc
  | raises n hi hr hn ht => exact ht ▸ codeAdvances_of_same hv rfl rfl rfl
  | transmits n hi hr hn hv' ht => exact ht ▸ codeAdvances_of_same hv rfl rfl rfl
  | loads hi hr ht => exact ht ▸ codeAdvances_of_same hv rfl rfl (loadRollingCode_rc_of_read hv hd)
  | saves hi hr ht => exact ht ▸ ⟨slotOf_memWrite s.rc s, .inl rfl⟩
  | sends b hi ht => exact ht ▸ codeAdvances_of_same hv rfl rfl rfl

/-- Rule R117 over the five kinds of step, a reset that keeps the storage among them (rules R212, R222). -/
theorem codeAdvances_of_step (h : step s = .next t) (hv : slotOf s = some s.rc) (hrc : s.rc ≠ 0xFFFFFFFF)
    (hd : s.readDraws.head? = some false)
    (hkept : ∀ fate set rest, s.inputs = .reset fate set :: rest → fate = .kept) : CodeAdvances s t := by
  cases step_cases h with
  | rests rest hb hi ht => exact ht ▸ codeAdvances_of_same hv rfl rfl rfl
  | advances rest hb hi ha =>
    have same := advance_sameRecord ha
    exact codeAdvances_of_same hv same.cfg same.nv same.rc
  | elapses rest hb hi hn ht => exact ht ▸ codeAdvances_of_same hv rfl rfl rfl
  | performs w i a rest hr hi ha hdec he =>
    obtain ⟨tied, rc⟩ := codeAdvances_of_exec he hv hrc hd
    exact ⟨tied, rc⟩
  | resets fate set rest hi ht =>
    obtain rfl := hkept fate set rest hi
    have load : t.rc = s.rc := ht ▸ resetBlock_rc_of_read (s := { s with inputs := rest }) set hv hd
    have slot : slotOf t = slotOf s := ht ▸ rfl
    exact ⟨by rw [slot, hv, load], .inl load⟩

/-- Settles O19, by the five kinds of step. -/
theorem rollingCodeAdvancesByOne : Obligations.RollingCodeAdvancesByOne := by
  intro s t d h hv hrc hd hkept
  obtain ⟨tied, rc⟩ := codeAdvances_of_step h hv hrc (by simp [hd]) hkept
  exact ⟨tied, rc⟩

/-! ### A run -/

@[simp] theorem startFrame_readDraws (n : Nibble) (s : State) : (startFrame n s).readDraws = s.readDraws := rfl
@[simp] theorem manSymbol_readDraws (b : Bool) (s : State) : (manSymbol b s).readDraws = s.readDraws := rfl

/-- An operation uses up at most one draw (rule R43). -/
theorem exec_readDraws {i : Instr} (h : exec i s = .next t) :
    t.readDraws = s.readDraws ∨ t.readDraws = s.readDraws.tail := by
  cases exec_cases h with
  | moves c hi hr ht => simp [ht]
  | builds c hi hr ht => simp [ht]
  | raises n hi hr hn ht => simp [ht]
  | transmits n hi hr hn hv ht => simp [ht]
  | loads hi hr ht => simp [ht]
  | saves hi hr ht => simp [ht]
  | sends b hi ht => simp [ht]

/-- A step brings no new input and uses up at most one draw. -/
theorem step_environment (h : step s = .next t) :
    t.inputs ⊆ s.inputs ∧ (t.readDraws = s.readDraws ∨ t.readDraws = s.readDraws.tail) := by
  cases step_cases h with
  | rests rest hb hi ht =>
    rcases hi with ⟨-, rfl⟩ | hi
    · simp [ht]
    · simp [ht, hi]
  | advances rest hb hi ha =>
    have same := advance_sameRecord ha
    refine ⟨?_, .inl same.readDraws⟩
    rw [same.inputs]
    rcases hi with ⟨-, rfl⟩ | hi
    · exact List.Subset.refl _
    · simp [hi]
  | elapses rest hb hi hn ht => simp [ht, hi]
  | performs w i a rest hr hi ha hd he =>
    obtain ⟨-, -, hin⟩ := exec_keeps_addr_cfg_inputs he
    have hdraws := exec_readDraws he
    exact ⟨by simp [hin, hi], hdraws⟩
  | resets fate set rest hi ht => simp [ht, hi]

/-- A run that answers a next state begins with a step that does. -/
theorem exists_step_of_run_succ {k : Nat} (h : run (k + 1) s = .next t) :
    ∃ u, step s = .next u ∧ run k u = .next t := by
  rw [run] at h
  split at h
  · exact ⟨_, ‹_›, h⟩
  · cases h
  · cases h

/-- Of `k + 1` successful draws a step leaves at least `k`. -/
theorem step_leaves_draws {k : Nat} {d : List Bool} (h : step s = .next t)
    (hd : s.readDraws = List.replicate (k + 1) false ++ d) : ∃ d', t.readDraws = List.replicate k false ++ d' := by
  rcases (step_environment h).2 with hs | hs
  · exact ⟨false :: d, by rw [hs, hd, List.replicate_succ', List.append_assoc, List.singleton_append]⟩
  · exact ⟨d, by rw [hs, hd, List.replicate_succ, List.cons_append, List.tail_cons]⟩

/-- Settles O20, by induction on the length of the run. -/
theorem rollingCodeNeverFallsAcrossRestarts : Obligations.RollingCodeNeverFallsAcrossRestarts := by
  intro k
  induction k with
  | zero =>
    intro s t d h hv hlt hd hkept
    cases h
    exact ⟨hv, le_refl _, le_refl _⟩
  | succ k ih =>
    intro s t d h hv hlt hd hkept
    obtain ⟨u, hstep, hrun⟩ := exists_step_of_run_succ h
    have hrc : s.rc ≠ 0xFFFFFFFF := by bv_omega
    obtain ⟨tied, advanced⟩ := codeAdvances_of_step hstep hv hrc (by simp [hd, List.replicate_succ])
      fun fate set rest hi => hkept fate set (by simp [hi])
    have rises : s.rc.toNat ≤ u.rc.toNat ∧ u.rc.toNat ≤ s.rc.toNat + 1 := by
      rcases advanced with hsame | ⟨hone, -⟩
      · simp [hsame]
      · omega
    obtain ⟨d', hd'⟩ := step_leaves_draws hstep hd
    obtain ⟨htied, hlow, hhigh⟩ := ih u t d' hrun tied (by omega) hd' fun fate set hm =>
      hkept fate set ((step_environment hstep).1 hm)
    exact ⟨htied, by omega, by omega⟩

end Sys2Proof.Machine
end

section
/-! Scope: the Manchester encoder: the symbol of a bit and the two steps of the data phase that send it, the
segments of the data phase, its levels in normal form, and its decoding (rules R120 to R126). -/

namespace Sys2Proof.Machine

variable {s : State} {b : Bool}

/-! ### The symbol of a bit -/

/-- Rules R120, R27: what a symbol writes. -/
theorem manSymbol_eq (b : Bool) (s : State) : manSymbol b s = { s with
    line := b, timer := BitVec.ofNat 17 s.cfg.symbol
    tr := s.tr ++ [.line !b, .wait s.cfg.symbol, .line b, .wait s.cfg.symbol] } := by
  simp [manSymbol, emit, lineEvent, waitEvent, manHalf]

theorem exec_decodeSym (b : Bool) (s : State) : exec (decodeSym b) s = .next (manSymbol b s) := by
  cases b <;> rfl

/-- Settles O21: both are the symbol of their bit. -/
theorem manchesterSymbols : Obligations.ManchesterSymbols := fun s =>
  ⟨(exec_decodeSym true s).trans (congrArg _ (manSymbol_eq true s)),
    (exec_decodeSym false s).trans (congrArg _ (manSymbol_eq false s))⟩

/-- Where the two steps at a data bit leave the sequencer (rule R141, rows `DATA`). -/
def afterBit (q : Seq) : Seq := if q.bit.toNat < 55 then { q with bit := q.bit + 1 } else { q with ph := .silence }

/-- Rules R123, R141: two steps at a data bit fetch it, send its symbol and move on. -/
theorem run_dataBit (hb : s.busy = true) (hp : Patient s) (c frm : BitVec 3) {i : BitVec 6}
    (hd : dataBit s.f i.toNat = some b) (l : Bool) (tm : BitVec 17) (tr : List Event) :
    run 2 (placed s ⟨.data, false, c, i, frm⟩ l tm tr) =
      .next (placed s (afterBit ⟨.data, false, c, i, frm⟩) b (BitVec.ofNat 17 s.cfg.symbol)
        (tr ++ traceOf (manSegs s.cfg b))) := by
  have due : ∀ half l tm tr, dueSegment (placed s ⟨.data, half, c, i, frm⟩ l tm tr) =
      some (manHalf s.cfg b half) := fun _ _ _ _ => by simp [dueSegment, placed, hd]
  have moved : ∀ l tm tr, moveOn (placed s ⟨.data, true, c, i, frm⟩ l tm tr) =
      placed s (afterBit ⟨.data, false, c, i, frm⟩) l tm tr := fun _ _ _ => by
    by_cases more : i.toNat < 55 <;> simp [moveOn, placed, afterBit, more]
  exact run_pair hb hp (q1 := ⟨.data, true, c, i, frm⟩) rfl rfl (due false) (due true)
    (fun _ _ _ => rfl) moved l tm tr

/-- Settles O22: the symbol the two steps send is the one `exec` sends. -/
theorem dataPhaseSendsManchesterSymbols : Obligations.DataPhaseSendsManchesterSymbols := by
  intro s b hb hp hph hhalf hd
  have position : s.seq = ⟨.data, false, s.seq.cnt, s.seq.bit, s.seq.frm⟩ := by rw [← hph, ← hhalf]
  have sent := run_dataBit hb hp s.seq.cnt s.seq.frm hd s.line s.timer s.tr
  rw [← position] at sent
  refine ⟨manSymbol b s, exec_decodeSym b s, sent.trans ?_⟩
  rw [manSymbol_eq]
  rfl

/-! ### The segments of the data phase -/

section segments
variable (c : Cfg) (bs : List Bool)

theorem flatMap_manSegs_cons (b : Bool) :
    (b :: bs).flatMap (manSegs c) = (!b, c.symbol) :: (b, c.symbol) :: bs.flatMap (manSegs c) := rfl

theorem flatMap_manSegs_concat (b : Bool) :
    (bs ++ [b]).flatMap (manSegs c) = bs.flatMap (manSegs c) ++ [(!b, c.symbol), (b, c.symbol)] := by
  rw [List.flatMap_append]
  rfl

theorem length_flatMap_manSegs : (bs.flatMap (manSegs c)).length = 2 * bs.length := by
  induction bs with
  | nil => rfl
  | cons b bs ih => rw [flatMap_manSegs_cons, List.length_cons, List.length_cons, ih, List.length_cons]; ring

/-- Every half-symbol lasts `SYMBOL` (rule R120). -/
theorem duration_of_mem_flatMap_manSegs {g : Segment} (h : g ∈ bs.flatMap (manSegs c)) : g.2 = c.symbol := by
  obtain ⟨b, -, hg⟩ := List.mem_flatMap.1 h
  rcases List.mem_pair.1 hg with rfl | rfl <;> rfl

theorem duration_flatMap_manSegs : duration (bs.flatMap (manSegs c)) = 2 * bs.length * c.symbol := by
  induction bs with
  | nil => simp [duration]
  | cons b bs ih => rw [flatMap_manSegs_cons, duration_cons, duration_cons, ih, List.length_cons]; ring

/-- One half of every symbol is high, whatever the bit (rule R125). -/
theorem highTime_flatMap_manSegs : highTime (bs.flatMap (manSegs c)) = bs.length * c.symbol := by
  induction bs with
  | nil => simp [highTime]
  | cons b bs ih =>
    rw [flatMap_manSegs_cons, highTime_cons, highTime_cons, ih, List.length_cons]
    cases b <;> simp <;> ring

end segments

/-- The data bits end with bit 0 of byte 6 (rule R47). -/
theorem dataBits_eq_concat (f : Frame) : dataBits f = (dataBits f).dropLast ++ [f.f6.getLsbD 0] := rfl

theorem dataSegs_eq_concat (c : Cfg) (f : Frame) : dataSegs c f =
    (dataBits f).dropLast.flatMap (manSegs c) ++ [(!f.f6.getLsbD 0, c.symbol), (f.f6.getLsbD 0, c.symbol)] :=
  (congrArg (List.flatMap (manSegs c)) (dataBits_eq_concat f)).trans (flatMap_manSegs_concat c _ _)

/-- Settles O23: the facts about any bits, for the 56 of a frame. -/
theorem dataPhaseShape : Obligations.DataPhaseShape := fun c f =>
  ⟨length_flatMap_manSegs c (dataBits f), fun _ => duration_of_mem_flatMap_manSegs c (dataBits f),
    duration_flatMap_manSegs c (dataBits f), highTime_flatMap_manSegs c (dataBits f),
    by rw [dataSegs_eq_concat, List.getLast?_append]; rfl⟩

/-! ### The levels of the data phase -/

/-- Prepending keeps the level at the head. -/
theorem prependSegment_eq_cons (g : Segment) (gs : List Segment) :
    ∃ n hs, prependSegment g gs = (g.1, n) :: hs := by
  cases gs with
  | nil => exact ⟨_, _, rfl⟩
  | cons h hs =>
    by_cases hl : g.1 = h.1
    · exact ⟨_, _, if_pos hl⟩
    · exact ⟨_, _, if_neg hl⟩

/-- A segment before another level stays apart (rule R7). -/
theorem normalForm_cons_of_ne {g h : Segment} (hl : g.1 ≠ h.1) (hs : List Segment) :
    normalForm (g :: h :: hs) = g :: normalForm (h :: hs) := by
  obtain ⟨n, tl, ht⟩ := prependSegment_eq_cons h (normalForm hs)
  rw [normalForm_cons g, normalForm_cons h, ht, prependSegment, if_neg hl]

/-- Two segments of one level are one (rule R7). -/
theorem normalForm_cons_of_eq {g h : Segment} (hl : g.1 = h.1) (hs : List Segment) :
    normalForm (g :: h :: hs) = normalForm ((g.1, g.2 + h.2) :: hs) := by
  rw [normalForm_cons, normalForm_cons, normalForm_cons]
  cases normalForm hs with
  | nil => simp [prependSegment, hl]
  | cons k ks => by_cases hk : h.1 = k.1 <;> simp [prependSegment, hl, hk, Nat.add_assoc]

theorem normalForm_ne_nil {gs : List Segment} (h : gs ≠ []) : normalForm gs ≠ [] := by
  obtain ⟨g, tl, rfl⟩ := List.exists_cons_of_ne_nil h
  obtain ⟨n, hs, hg⟩ := prependSegment_eq_cons g (normalForm tl)
  simp [hg]

/-- Prepending looks no further than the first segment. -/
theorem prependSegment_append (g : Segment) {gs : List Segment} (h : gs ≠ []) (hs : List Segment) :
    prependSegment g (gs ++ hs) = prependSegment g gs ++ hs := by
  obtain ⟨k, ks, rfl⟩ := List.exists_cons_of_ne_nil h
  by_cases hk : g.1 = k.1 <;> simp [prependSegment, hk]

/-- Where the level changes, the normal form of a waveform falls into two. -/
theorem normalForm_split {g h : Segment} (hl : g.1 ≠ h.1) (gs hs : List Segment) :
    normalForm (gs ++ g :: h :: hs) = normalForm (gs ++ [g]) ++ normalForm (h :: hs) := by
  induction gs with
  | nil => exact normalForm_cons_of_ne hl hs
  | cons k gs ih =>
    rw [List.cons_append, List.cons_append, normalForm_cons k, normalForm_cons k, ih,
      prependSegment_append k (normalForm_ne_nil (by simp))]

/-- Rule R125: after the first half of a bit, a level of `2 * SYMBOL` exactly where the next bit differs. -/
theorem normalForm_secondHalf (c : Cfg) (b : Bool) (bs : List Bool) :
    normalForm ((b, c.symbol) :: bs.flatMap (manSegs c)) = levelsFrom c b bs := by
  induction bs generalizing b with
  | nil => rfl
  | cons d ds ih =>
    have apart : (!d) ≠ d := Bool.not_ne_self d
    rw [flatMap_manSegs_cons, levelsFrom]
    split
    case isTrue h => rw [normalForm_cons_of_ne (h ▸ apart.symm), normalForm_cons_of_ne apart, ih]
    case isFalse h =>
      have merged : b = !d := Bool.eq_not.2 h
      rw [normalForm_cons_of_eq merged, normalForm_cons_of_ne (merged ▸ apart), ih, two_mul]

theorem normalForm_flatMap_manSegs (c : Cfg) (bs : List Bool) :
    normalForm (bs.flatMap (manSegs c)) = dataLevels c bs := by
  cases bs with
  | nil => rfl
  | cons b bs =>
    rw [flatMap_manSegs_cons, normalForm_cons_of_ne (Bool.not_ne_self b), normalForm_secondHalf, dataLevels]

theorem duration_of_mem_levelsFrom (c : Cfg) (b : Bool) (bs : List Bool) {g : Segment}
    (hg : g ∈ levelsFrom c b bs) : g.2 = c.symbol ∨ g.2 = 2 * c.symbol := by
  induction bs generalizing b with
  | nil => exact .inl (by rw [List.mem_singleton.1 hg])
  | cons d ds ih =>
    rw [levelsFrom] at hg
    split at hg
    · rcases List.mem_cons.1 hg with rfl | hg
      · exact .inl rfl
      · rcases List.mem_cons.1 hg with rfl | hg
        · exact .inl rfl
        · exact ih d hg
    · rcases List.mem_cons.1 hg with rfl | hg
      · exact .inr rfl
      · exact ih d hg

theorem duration_of_mem_dataLevels (c : Cfg) (bs : List Bool) {g : Segment} (hg : g ∈ dataLevels c bs) :
    g.2 = c.symbol ∨ g.2 = 2 * c.symbol := by
  cases bs with
  | nil => cases hg
  | cons b bs =>
    rcases List.mem_cons.1 hg with rfl | hg
    · exact .inl rfl
    · exact duration_of_mem_levelsFrom c b bs hg

/-- Settles O24, by induction on the bits sent. -/
theorem dataLevelsLastOneOrTwoSymbols : Obligations.DataLevelsLastOneOrTwoSymbols := fun c f =>
  have levels : normalForm (dataSegs c f) = dataLevels c (dataBits f) := normalForm_flatMap_manSegs c (dataBits f)
  ⟨levels, fun _ hg => duration_of_mem_dataLevels c (dataBits f) (levels ▸ hg)⟩

/-- A first bit 1 begins with a low, which the low of the software sync takes in (rules R125, R134). -/
theorem normalForm_swsync_data (c : Cfg) {f : Frame} (h1 : f.f0.getLsbD 7 = true) :
    (normalForm (swsyncSegs c ++ dataSegs c f)).take 2 = [(true, c.tSwsyncHi), (false, 2 * c.symbol)] := by
  have segments : dataSegs c f =
      (!f.f0.getLsbD 7, c.symbol) :: (f.f0.getLsbD 7, c.symbol) :: (dataBits f).tail.flatMap (manSegs c) := rfl
  have joined : swsyncSegs c ++ dataSegs c f = (true, c.tSwsyncHi) :: (false, c.symbol) :: (false, c.symbol) ::
      (true, c.symbol) :: (dataBits f).tail.flatMap (manSegs c) := by rw [segments, h1]; rfl
  rw [joined, normalForm_cons_of_ne Bool.false_ne_true.symm, normalForm_cons_of_eq rfl,
    normalForm_cons_of_ne Bool.false_ne_true, two_mul]
  rfl

/-- The silence takes in a last half-symbol that is low (rules R125, R136, R137). -/
theorem normalForm_data_silence (c : Cfg) (f : Frame) :
    (normalForm (dataSegs c f ++ silenceSegs c)).getLast? =
      some (false, if f.f6.getLsbD 0 then c.tIfs else c.symbol + c.tIfs) := by
  rw [dataSegs_eq_concat, List.append_assoc]
  generalize f.f6.getLsbD 0 = b
  refine (congrArg List.getLast? (normalForm_split (Bool.not_ne_self b) _ (silenceSegs c))).trans ?_
  rw [List.getLast?_append]
  cases b <;> rfl

/-- Settles O25: a frame of the builder begins with a bit 1, and the last bit is either. -/
theorem dataPhaseMergesWithItsNeighbours : Obligations.DataPhaseMergesWithItsNeighbours := fun cfg m addr rc c =>
  ⟨normalForm_swsync_data cfg (firstDataBitIsOne cfg m addr rc c).1, normalForm_data_silence cfg _⟩

/-! ### Decoding -/

/-- The levels of a symbol are the complement of the bit and the bit (rule R120). -/
theorem levels_flatMap_manSegs (c : Cfg) (bs : List Bool) :
    (bs.flatMap (manSegs c)).map (·.1) = bs.flatMap (fun b => [!b, b]) := List.map_flatMap

theorem manDecode_flatMap (bs : List Bool) : manDecode (bs.flatMap fun b => [!b, b]) = some bs := by
  induction bs with
  | nil => rfl
  | cons b bs ih => simp [manDecode, ih]

/-- Levels that decode are the complementary pairs of their bits (rule R126). -/
theorem eq_flatMap_of_manDecode {hs bs : List Bool} (h : manDecode hs = some bs) :
    hs = bs.flatMap fun b => [!b, b] := by
  fun_induction manDecode hs generalizing bs with
  | case1 => cases h; rfl
  | case2 => cases h
  | case3 b hs ih =>
    obtain ⟨ds, hd, rfl⟩ := Option.map_eq_some_iff.1 h
    rw [ih hd]
    rfl
  | case4 => cases h

/-- Taking in the low `k` bits, highest first, gives back the number they were cut from. -/
theorem foldl_testBit (n k : Nat) :
    ((List.range k).reverse.map n.testBit).foldl (fun acc b => 2 * acc + b.toNat) (n / 2 ^ k) = n := by
  induction k with
  | zero => simp
  | succ k ih =>
    have step : 2 * (n / 2 ^ (k + 1)) + (n.testBit k).toNat = n / 2 ^ k := by
      rw [Nat.toNat_testBit, pow_succ, ← Nat.div_div_eq_div_mul]
      omega
    rw [List.range_succ, List.reverse_concat, List.map_cons, List.foldl_cons, step, ih]

theorem packByte_byteBits (x : Byte) : packByte (byteBits x) = x := by
  have bits : byteBits x = (List.range 8).reverse.map x.toNat.testBit := rfl
  have start : 0 = x.toNat / 2 ^ 8 := (Nat.div_eq_of_lt x.isLt).symm
  rw [packByte, bits, start, foldl_testBit, BitVec.ofNat_toNat, BitVec.setWidth_eq]

/-- Each byte is packed from its own eight bits (rule R126). -/
theorem packFrame_dataBits (f : Frame) : packFrame (dataBits f) = f := by
  have bytes : packFrame (dataBits f) = ⟨packByte (byteBits f.f0), packByte (byteBits f.f1),
    packByte (byteBits f.f2), packByte (byteBits f.f3), packByte (byteBits f.f4), packByte (byteBits f.f5),
    packByte (byteBits f.f6)⟩ := rfl
  simp only [bytes, packByte_byteBits]

/-- Settles O26: decoding and the code of a list of bits are inverse to each other. -/
theorem dataPhaseDecodes : Obligations.DataPhaseDecodes := by
  refine ⟨fun c f => ?_, packFrame_dataBits, fun hs bs => ⟨eq_flatMap_of_manDecode, ?_⟩⟩
  · rw [dataSegs, levels_flatMap_manSegs, manDecode_flatMap]
  · rintro rfl
    exact manDecode_flatMap bs

end Sys2Proof.Machine
end

section
/-! Scope: TX and the sequencer: what TX answers on a ready block, the rows of the sequencer's table, and the
whole frames (rules R130 to R142, R145). -/

namespace Sys2Proof.Machine

variable {s t : State}

/-! ### TX on a ready block -/

theorem txOp_invalid {n : Nibble} (hr : Ready s) (hn : validSyncCount n = false) :
    txOp n s = .next (raiseInvalidSyncCount n s) := by
  rw [txOp, whenIdle_idle hr.1 hr.2, if_pos hn]

theorem txOp_noFrame {n : Nibble} (hr : Ready s) (hn : validSyncCount n = true) (hv : s.fv = false) :
    txOp n s = .refused .noFrame := by
  rw [txOp, whenIdle_idle hr.1 hr.2, if_neg (by simp [hn]), if_pos hv]

theorem exec_txFirst (hr : Ready s) (hv : s.fv = true) :
    exec .txFirst s = .next (startFrame Config.nSyncFirst s) := txOp_accept hr.1 hr.2 rfl hv

theorem exec_txRepeat (hr : Ready s) (hv : s.fv = true) :
    exec .txRepeat s = .next (startFrame Config.nSyncRepeat s) := txOp_accept hr.1 hr.2 rfl hv

/-- Settles O30: `startFrame` makes the writes of the acceptance. -/
theorem txAcceptance : Obligations.TxAcceptance := fun _ hr hv => ⟨exec_txFirst hr hv, exec_txRepeat hr hv⟩

/-- Settles O31: both counts are valid, so the missing frame is what is tested next. -/
theorem txWithoutFrameIsRefused : Obligations.TxWithoutFrameIsRefused := fun _ hr hv =>
  ⟨txOp_noFrame hr rfl hv, txOp_noFrame hr rfl hv⟩

/-- Settles O32: the count is tested before `FV`. -/
theorem txInvalidTakesTheException : Obligations.TxInvalidTakesTheException := fun _ _ hn hr =>
  txOp_invalid hr (validSyncCount_eq_false.2 (wellFormed_txInvalid.1 hn))

/-! ### The table of the sequencer -/

/-- Settles O34: with no input the block goes on only with an operation in progress. -/
theorem restingBlockStays : Obligations.RestingBlockStays := by
  intro s hb hi
  simp [step, proceed, hi, hb]

/-- A row of the table: the segment due is sent, and `SEQ` moves on from there. -/
theorem step_row (hb : s.busy = true) (hp : Patient s) {ph : Phase} (hph : s.seq.ph = ph) (hs : ph.sending = true)
    {g : Segment} (hg : dueSegment s = some g) (ht : moveOn (emit g s) = t) : step s = .next t := by
  subst hph ht
  exact step_sending hb hp hs hg

/-- Settles O33: each row is the segment due in its phase and half, and the move after it. -/
theorem sequencerFollowsItsTable : Obligations.SequencerFollowsItsTable := by
  intro s hb hp
  refine ⟨fun ph half => ?_, fun ph half => ?_, fun ph half => ?_, fun ph half more => ?_, fun ph half more => ?_,
    fun ph half => ?_, fun ph half => ?_, fun b ph half bit => ?_, fun b ph half more bit => ?_,
    fun b ph half more bit => ?_, fun ph burst more => ?_, fun ph more => ?_, fun ph => ?_⟩
  case refine_13 => rw [step_busy hb hp, advance, ph]
  all_goals refine step_row hb hp ph rfl (by simp [dueSegment, manHalf, *]; rfl) ?_
  all_goals simp [moveOn, Config.nSyncRepeat, *]

end Sys2Proof.Machine
end

section
/-! Scope: whole frames and bursts: their segments and durations, and TX from its acceptance to its end (rules R130,
R138, R139, R141, R142, R167). -/

namespace Sys2Proof.Machine

variable {s : State}

/-! ### Counts and durations -/

@[simp] theorem duration_append (gs hs : List Segment) : duration (gs ++ hs) = duration gs + duration hs := by
  simp [duration]

@[simp] theorem duration_flatten_replicate (n : Nat) (gs : List Segment) :
    duration (List.replicate n gs).flatten = n * duration gs := by
  induction n with
  | zero => simp [duration]
  | succ n ih => rw [List.replicate_succ, List.flatten_cons, duration_append, ih]; ring

@[simp] theorem length_dataSegs (c : Cfg) (f : Frame) : (dataSegs c f).length = 112 := (dataPhaseShape c f).1

@[simp] theorem duration_dataSegs (c : Cfg) (f : Frame) : duration (dataSegs c f) = 112 * c.symbol :=
  duration_flatMap_manSegs c (dataBits f)

section frame
variable (c : Cfg) (f : Frame)

theorem length_frameSegs_first : (frameSegs c 2 f).length = 121 := by
  rw [frameSegs_first]
  simp [wakeSegs, hwsyncSegs, swsyncSegs, silenceSegs]

theorem length_frameSegs_repeat : (frameSegs c 7 f).length = 129 := by
  rw [frameSegs_repeat]
  simp [hwsyncSegs, swsyncSegs, silenceSegs]

theorem duration_hwsyncSegs (n : Nat) : duration (hwsyncSegs c n) = n * (c.tHwsyncHi + c.tHwsyncLo) := by
  rw [hwsyncSegs, duration_flatten_replicate]
  rfl

/-- From the software sync to the end of a frame: the low of the sync and the data are 113 half-bits (rules R134 to
R136). -/
theorem duration_after_hwsync : duration (swsyncSegs c) + duration (dataSegs c f) + duration (silenceSegs c) =
    c.tSwsyncHi + 113 * c.symbol + c.tIfs := by
  rw [duration_dataSegs]
  simp only [duration, swsyncSegs, silenceSegs, List.map_cons, List.map_nil, List.sum_cons, List.sum_nil]
  ring

theorem duration_frameSegs_first : duration (frameSegs c 2 f) =
    c.tWakeHi + c.tWakeLo + 2 * (c.tHwsyncHi + c.tHwsyncLo) + c.tSwsyncHi + 113 * c.symbol + c.tIfs := by
  have rest := duration_after_hwsync c f
  have wake : duration (wakeSegs c) = c.tWakeHi + c.tWakeLo := rfl
  simp only [frameSegs_first, duration_append, duration_hwsyncSegs, wake]
  omega

theorem duration_frameSegs_repeat : duration (frameSegs c 7 f) =
    7 * (c.tHwsyncHi + c.tHwsyncLo) + c.tSwsyncHi + 113 * c.symbol + c.tIfs := by
  have rest := duration_after_hwsync c f
  simp only [frameSegs_repeat, duration_append, duration_hwsyncSegs]
  omega

theorem length_burstSegs : (burstSegs c f).length = 121 + 129 * c.kRepeat := by
  have first : (frameSegs c Config.nSyncFirst f).length = 121 := length_frameSegs_first c f
  have next : (frameSegs c Config.nSyncRepeat f).length = 129 := length_frameSegs_repeat c f
  simp [burstSegs, first, next, Nat.mul_comm]

theorem duration_burstSegs :
    duration (burstSegs c f) = duration (frameSegs c 2 f) + c.kRepeat * duration (frameSegs c 7 f) := by
  rw [burstSegs, duration_append, duration_flatten_replicate]
  rfl

end frame

/-- Settles O35: the formulas, and the numbers of `REF` put into them. -/
theorem frameCountsAndDurations : Obligations.FrameCountsAndDurations := by
  refine ⟨fun c f => ⟨length_frameSegs_first c f, length_frameSegs_repeat c f, duration_frameSegs_first c f,
    duration_frameSegs_repeat c f, c.kRepeat_cases, length_burstSegs c f, duration_burstSegs c f⟩, fun f => ?_⟩
  simp only [length_burstSegs, duration_burstSegs, duration_frameSegs_first, duration_frameSegs_repeat]
  exact ⟨rfl, rfl, rfl, rfl, rfl, rfl⟩

/-! ### TX from its acceptance to its end -/

/-- What an accepted TX with count `n` writes beside `SEQ` (rule R130). -/
def accepted (n : Nibble) (s : State) : State := { s with nsync := n, burst := false, busy := true }

/-- A finished TX leaves a block that was idle before as it was, but for the sequencer's own registers. -/
theorem finished_accepted (hb : s.busy = false) (n : Nibble) (m : Nat) (tr : List Event) :
    finished (accepted n s) m 0 tr = { s with
      line := false, timer := 0, nsync := n, burst := false
      seq := { ph := .idle, half := false, cnt := BitVec.ofNat 3 m, bit := 55, frm := 0 }
      tr := tr } := by
  cases s
  cases hb
  rfl

/-- Rule R138: the wake-up, then the frame from its first pulse pair. -/
theorem run_startFrame_first (hp : Patient s) : run 122 (startFrame Config.nSyncFirst s) =
    .next (finished (accepted 2 s) 1 0 (s.tr ++ traceOf (frameSegs s.cfg 2 s.f))) := by
  obtain ⟨l, tm, wake⟩ := run_wake (s := accepted 2 s) rfl hp s.seq.cnt s.seq.bit 0 s.line s.timer s.tr
  have frame := run_last_frame (s := accepted 2 s) rfl hp 1 rfl (by decide) s.seq.bit 0 l tm
    (s.tr ++ traceOf (wakeSegs s.cfg)) (by simp [accepted])
  rw [frameSegs_first, traceOf_append, ← List.append_assoc]
  exact run_trans (j := 2) (k := 120) rfl wake frame

/-- Rule R139: the frame from its first pulse pair. -/
theorem run_startFrame_repeat (hp : Patient s) : run 130 (startFrame Config.nSyncRepeat s) =
    .next (finished (accepted 7 s) 6 0 (s.tr ++ traceOf (frameSegs s.cfg 7 s.f))) := by
  rw [frameSegs_repeat]
  exact run_last_frame (s := accepted 7 s) rfl hp 6 rfl (by decide) s.seq.bit 0 s.line s.timer s.tr
    (by simp [accepted])

/-- Settles O28, by the run from the wake-up. -/
theorem txFirstSendsFirstFrame : Obligations.TxFirstSendsFirstFrame := by
  intro s hr hv hp
  have sent := run_startFrame_first hp
  rw [finished_accepted hr.2] at sent
  exact ⟨_, exec_txFirst hr hv, rfl, rfl, length_frameSegs_first s.cfg s.f, sent⟩

/-- Settles O29, by the run from the first pulse pair. -/
theorem txRepeatSendsRepeatFrame : Obligations.TxRepeatSendsRepeatFrame := by
  intro s hr hv hp
  have sent := run_startFrame_repeat hp
  rw [finished_accepted hr.2] at sent
  exact ⟨_, exec_txRepeat hr hv, rfl, rfl, length_frameSegs_repeat s.cfg s.f, sent⟩

end Sys2Proof.Machine
end

section
/-! Scope: every step and every run of the transmitter: whole segments in the trace, timing that does not depend on
the frame, the end of every operation, and the edge it starts with (rules R137, R141 to R146). -/

namespace Sys2Proof.Machine

variable {s t : State}

/-! ### Whole segments -/

theorem wholeSegments_append {es fs : List Event} (he : wholeSegments es = true) (hf : wholeSegments fs = true) :
    wholeSegments (es ++ fs) = true := by
  induction es using wholeSegments.induct with
  | case1 v n es ih => exact ih he
  | case2 v es h => simp [wholeSegments] at he
  | case3 n es => simp [wholeSegments] at he
  | case4 a r es ih => exact ih he
  | case5 a v es ih => exact ih he
  | case6 => exact hf

theorem wholeSegments_traceOf (gs : List Segment) : wholeSegments (traceOf gs) = true := by
  induction gs with
  | nil => rfl
  | cons g gs ih => exact ih

/-- What an operation adds to the trace is made of whole segments: an access to the store, or a symbol. -/
theorem exec_tr {i : Instr} (h : exec i s = .next t) : ∃ es, t.tr = s.tr ++ es ∧ wholeSegments es = true := by
  cases exec_cases h with
  | moves c hi hr ht => exact ⟨_, ht ▸ startBurst_tr c s, rfl⟩
  | builds c hi hr ht => exact ⟨_, ht ▸ buildFrame_tr c s, rfl⟩
  | raises n hi hr hn ht => exact ⟨[], by simp [ht], rfl⟩
  | transmits n hi hr hn hv ht => exact ⟨[], by simp [ht, startFrame], rfl⟩
  | loads hi hr ht => exact ⟨_, ht ▸ loadRollingCode_tr s, rfl⟩
  | saves hi hr ht => exact ⟨_, ht ▸ memWrite_tr s.rc s, rfl⟩
  | sends b hi ht => exact ⟨_, ht ▸ congrArg State.tr (manSymbol_eq b s), rfl⟩

/-- Settles O38, by the five kinds of step: each keeps the trace, adds whole segments, or starts it anew. -/
theorem traceStaysWholeSegments : Obligations.TraceStaysWholeSegments := by
  intro s t hw h
  cases step_cases h with
  | rests rest hb hi ht => exact ht ▸ hw
  | advances rest hb hi ha =>
    obtain ⟨gs, htr⟩ := (advance_sameRecord ha).tr
    rw [htr]
    exact wholeSegments_append hw (wholeSegments_traceOf gs)
  | elapses rest hb hi hn ht => exact ht ▸ hw
  | performs w i a rest hr hi ha hd he =>
    obtain ⟨es, htr, hes⟩ := exec_tr he
    rw [htr]
    exact wholeSegments_append hw hes
  | resets fate set rest hi ht =>
    obtain ⟨r, -, htr, -⟩ := resetBlock_load fate set { s with inputs := rest }
    rw [ht, htr]
    rfl

/-! ### Timing and the frame -/

/-- The state with another frame, level of the line and trace: what an observer of the timing does not see. -/
def relevelled (f : Frame) (l : Bool) (tr : List Event) (s : State) : State := { s with f := f, line := l, tr := tr }

theorem withoutLevels_append (es fs : List Event) :
    withoutLevels (es ++ fs) = withoutLevels es ++ withoutLevels fs := List.map_append

/-- Whether there is a bit at an index does not depend on the frame (rule R123). -/
theorem dataBit_map_const (f g : Frame) (i n : Nat) :
    (dataBit f i).map (fun _ => n) = (dataBit g i).map (fun _ => n) := by
  have bits : (dataBit f i).isSome = (dataBit g i).isSome :=
    Bool.eq_iff_iff.2 ((dataBit_isSome f i).trans (dataBit_isSome g i).symm)
  cases hf : dataBit f i <;> cases hg : dataBit g i <;> simp_all

/-- The next segment lasts as long whatever the frame (rule R143). -/
theorem dueSegment_relevelled (f : Frame) (l : Bool) (tr : List Event) (s : State) :
    (dueSegment (relevelled f l tr s)).map (·.2) = (dueSegment s).map (·.2) := by
  cases hp : s.seq.ph with
  | data => simpa [dueSegment, relevelled, hp, manHalf, Function.comp_def] using dataBit_map_const f s.f _ _
  | _ => simp only [dueSegment, relevelled, hp] <;> rfl

theorem moveOn_relevelled (f : Frame) (l : Bool) (tr : List Event) (s : State) :
    moveOn (relevelled f l tr s) = relevelled f l tr (moveOn s) := by
  unfold moveOn relevelled
  (repeat' split) <;> simp_all

/-- `t'` is `t` with another frame `f` and other levels: the same in all that an observer of the timing sees. -/
def SameTiming (f : Frame) (t t' : State) : Prop :=
  ∃ l tr, t' = relevelled f l tr t ∧ withoutLevels tr = withoutLevels t.tr

theorem advance_sameTiming {f : Frame} {s' : State} (hs : SameTiming f s s') (h : advance s = .next t) :
    ∃ t', advance s' = .next t' ∧ SameTiming f t t' := by
  obtain ⟨l, tr, rfl, htr⟩ := hs
  rcases advance_next h with ⟨hp, rfl⟩ | ⟨hp, rfl⟩ | ⟨hp, g, hg, rfl⟩
  · exact ⟨_, by simp only [advance, relevelled, hp], l, tr, rfl, htr⟩
  · exact ⟨_, by simp only [advance, relevelled, hp], l, tr, rfl, htr⟩
  · have due := dueSegment_relevelled f l tr s
    rw [hg, Option.map_some, Option.map_eq_some_iff] at due
    obtain ⟨g', hg', hn⟩ := due
    have sent : emit g' (relevelled f l tr s) = relevelled f g'.1 (tr ++ traceOf [g']) (emit g s) := by
      simp [emit, waitEvent, lineEvent, relevelled, hn]
    refine ⟨_, advance_sending (s := relevelled f l tr s) hp hg', g'.1, tr ++ traceOf [g'], ?_, ?_⟩
    · rw [sent, moveOn_relevelled]
    · rw [moveOn_tr, emit_tr, withoutLevels_append, withoutLevels_append, htr]
      simp [withoutLevels, hn]

theorem step_sameTiming {f : Frame} {s' : State} (hi : s.inputs = []) (hs : SameTiming f s s')
    (h : step s = .next t) : t.inputs = [] ∧ ∃ t', step s' = .next t' ∧ SameTiming f t t' := by
  have hi' : s'.inputs = [] := by
    obtain ⟨l, tr, rfl, -⟩ := hs
    exact hi
  have hb' : s'.busy = s.busy := by
    obtain ⟨l, tr, rfl, -⟩ := hs
    rfl
  cases hb : s.busy with
  | false =>
    obtain rfl : s = t := by simpa [restingBlockStays s hb hi] using h
    exact ⟨hi, s', restingBlockStays s' (hb'.trans hb) hi', hs⟩
  | true =>
    rw [step_busy hb (by simp [Patient, hi])] at h
    obtain ⟨t', ht', same⟩ := advance_sameTiming hs h
    exact ⟨(advance_sameRecord h).inputs.trans hi, t',
      (step_busy (hb'.trans hb) (by simp [Patient, hi'])).trans ht', same⟩

theorem run_sameTiming {f : Frame} (k : Nat) {s' : State} (hi : s.inputs = []) (hs : SameTiming f s s')
    (h : run k s = .next t) : ∃ t', run k s' = .next t' ∧ SameTiming f t t' := by
  induction k generalizing s s' with
  | zero =>
    cases h
    exact ⟨s', rfl, hs⟩
  | succ k ih =>
    obtain ⟨u, hstep, hrun⟩ := exists_step_of_run_succ h
    obtain ⟨hu, u', hstep', same⟩ := step_sameTiming hi hs hstep
    rw [run_succ_next k hstep']
    exact ih hu same hrun

/-- Settles O36: the runs of two states with the same timing stay at the same timing. -/
theorem timingIndependentOfFrame : Obligations.TimingIndependentOfFrame := by
  intro k s t g hi h
  obtain ⟨t', hrun, l, tr, rfl, htr⟩ := run_sameTiming k (s' := { s with f := g }) hi ⟨s.line, s.tr, rfl, rfl⟩ h
  exact ⟨_, hrun, rfl, rfl, rfl, rfl, htr⟩

/-! ### The end of every operation -/

/-- The segments left of the frame in progress at position `q` with sync count `n` (rule R141). -/
def segmentsLeft (n : Nibble) (q : Seq) : Nat :=
  match q.ph with
  | .idle | .halt => 0
  | .wake => 117 + 2 * n.toNat - q.half.toNat
  | .hwsync => 115 + 2 * (n.toNat - q.cnt.toNat) - q.half.toNat
  | .swsync => 115 - q.half.toNat
  | .data => 1 + 2 * (56 - q.bit.toNat) - q.half.toNat
  | .silence => 1

/-- A bound of the steps an operation in progress still takes: the segments of its frame, 129 for each repeat of a
burst to come, and the step in which `BUSY` falls (log entry 7). -/
def stepsLeft (s : State) : Nat :=
  segmentsLeft s.nsync s.seq + (if s.burst then 129 * (s.cfg.kRepeat - s.seq.frm.toNat) else 0) + 1

/-- Each segment takes one step off (rule R141). -/
theorem stepsLeft_moveOn (p : FramePosition s.cfg.kRepeat s.burst s.nsync s.seq) :
    stepsLeft (moveOn s) + 1 = stepsLeft s := by
  obtain ⟨sending, cntLe, bitLe, frmLe, -, -, -, pairsLeft, -⟩ := p
  have hk := s.cfg.kRepeat_cases
  unfold stepsLeft
  rw [moveOn_cfg, moveOn_burst]
  cases hp : s.seq.ph with
  | idle => simp [hp, Phase.sending] at sending
  | halt => simp [hp, Phase.sending] at sending
  | wake => cases hh : s.seq.half <;> simp [moveOn, segmentsLeft, hp, hh] <;> omega
  | hwsync =>
    have left := pairsLeft hp
    cases hh : s.seq.half with
    | false =>
      simp [moveOn, segmentsLeft, hp, hh]
      omega
    | true =>
      by_cases more : s.seq.cnt.toNat + 1 < s.nsync.toNat
      · simp only [moveOn, segmentsLeft, hp, hh, more, if_true, Bool.toNat_true, Bool.toNat_false]
        bv_omega
      · simp [moveOn, segmentsLeft, hp, hh, more]
        omega
  | swsync => cases hh : s.seq.half <;> simp [moveOn, segmentsLeft, hp, hh] <;> omega
  | data =>
    cases hh : s.seq.half with
    | false =>
      simp [moveOn, segmentsLeft, hp, hh]
      omega
    | true =>
      by_cases more : s.seq.bit.toNat < 55
      · simp only [moveOn, segmentsLeft, hp, hh, more, if_true, Bool.toNat_true, Bool.toNat_false]
        bv_omega
      · simp [moveOn, segmentsLeft, hp, hh, more]
        omega
  | silence =>
    by_cases more : s.burst = true ∧ s.seq.frm.toNat < s.cfg.kRepeat
    · simp only [moveOn, segmentsLeft, hp, more, and_self, if_true, Config.nSyncRepeat, Bool.toNat_false]
      bv_omega
    · simp only [moveOn, segmentsLeft, hp, if_neg more]
      omega

/-- An operation has at most the 637 segments of the longest burst before it (rule R142): a repeat frame is longer
than a first one, but in a burst it is never the frame 0. -/
theorem stepsLeft_le (h : Inv s) : stepsLeft s ≤ 638 := by
  have hk := s.cfg.kRepeat_cases
  have repeats : (if s.burst then 129 * (s.cfg.kRepeat - s.seq.frm.toNat) else 0) ≤ 516 := by
    split <;> omega
  unfold stepsLeft
  cases hp : s.seq.ph with
  | wake =>
    have two : s.nsync.toNat = 2 := by rw [h.wakeFirst hp]; rfl
    simp only [segmentsLeft, hp, two]
    omega
  | hwsync =>
    have sending : s.seq.ph.sending = true := by rw [hp]; rfl
    simp only [segmentsLeft, hp]
    rcases h.sendingSync sending with first | next
    · have two : s.nsync.toNat = 2 := by rw [first]; rfl
      omega
    · have seven : s.nsync.toNat = 7 := by rw [next]; rfl
      have later : s.burst = true → s.seq.frm ≠ 0 := fun hb h0 =>
        absurd (next.symm.trans ((h.burstSync hb sending).2 h0)) (by decide)
      split
      · have nonzero := later ‹_›
        bv_omega
      · omega
  | _ =>
    simp only [segmentsLeft, hp]
    omega

theorem SameRecord.trans {u : State} (hs : SameRecord s t) (ht : SameRecord t u) : SameRecord s u where
  cfg := ht.cfg.trans hs.cfg
  f := ht.f.trans hs.f
  fv := ht.fv.trans hs.fv
  fault := ht.fault.trans hs.fault
  fcause := ht.fcause.trans hs.fcause
  finfo := ht.finfo.trans hs.finfo
  addr := ht.addr.trans hs.addr
  rc := ht.rc.trans hs.rc
  cmd := ht.cmd.trans hs.cmd
  burst := ht.burst.trans hs.burst
  nv := ht.nv.trans hs.nv
  inputs := ht.inputs.trans hs.inputs
  readDraws := ht.readDraws.trans hs.readDraws
  drawCount := ht.drawCount.trans hs.drawCount
  tr := by
    obtain ⟨gs, hgs⟩ := hs.tr
    obtain ⟨hs', hhs⟩ := ht.tr
    exact ⟨gs ++ hs', by rw [hhs, hgs, traceOf_append, List.append_assoc]⟩

/-- A busy block of the invariant ends its operation, or comes a step nearer to the end of it. -/
theorem advance_toward_end (h : Inv s) (hb : s.busy = true) : ∃ t, advance s = .next t ∧
    ((t.busy = false ∧ t.seq.ph = .idle) ∨ (t.busy = true ∧ stepsLeft t + 1 = stepsLeft s)) := by
  cases hs : s.seq.ph.sending with
  | true =>
    obtain ⟨g, hg⟩ := dueSegment_isSome hs h.bitLe
    have position := framePosition_of_inv h hs
    exact ⟨_, advance_sending hs hg, .inr ⟨by simpa using hb, stepsLeft_moveOn (s := emit g s) position⟩⟩
  | false =>
    cases hp : s.seq.ph with
    | idle => exact ⟨{ s with timer := 0, busy := false }, by simp [advance, hp], .inl ⟨rfl, hp⟩⟩
    | halt => cases hb.symm.trans (h.faultIdle (h.faultHalt.2 hp))
    | _ => simp [hp, Phase.sending] at hs

/-- The end of an operation, by induction on a bound of the steps left. -/
theorem run_to_end (m : Nat) (h : Inv s) (hb : s.busy = true) (hp : Patient s) (hm : stepsLeft s ≤ m) :
    ∃ k t, k ≤ m ∧ run k s = .next t ∧ Inv t ∧ t.busy = false ∧ t.seq.ph = .idle ∧ SameRecord s t := by
  induction m generalizing s with
  | zero => simp [stepsLeft] at hm
  | succ m ih =>
    obtain ⟨t, ha, done | ⟨hbt, left⟩⟩ := advance_toward_end h hb
    all_goals
      have hstep := (step_busy hb hp).trans ha
      have same := advance_sameRecord ha
    · exact ⟨1, t, by omega, run_one hstep, inv_advance h ha, done.1, done.2, same⟩
    · have patient : Patient t := by
        rw [Patient, same.inputs]
        exact hp
      obtain ⟨k, u, hk, hrun, hu, hbu, hidle, rest⟩ := ih (inv_advance h ha) hbt patient (by omega)
      exact ⟨k + 1, u, by omega, (run_succ_next k hstep).trans hrun, hu, hbu, hidle, same.trans rest⟩

/-- Settles O39: the invariant at the end gives the low line and no fault. -/
theorem acceptedOperationCompletes : Obligations.AcceptedOperationCompletes := by
  intro s h hb hp
  obtain ⟨k, t, hk, hrun, ht, hbt, hidle, same⟩ := run_to_end 638 h hb hp (stepsLeft_le h)
  have hfault : t.fault = false := fault_eq_false_of_inv ht (by simp [hidle])
  have hline : t.line = false := ht.restLow (by rw [hidle]; rfl)
  exact ⟨k, t, hk, hrun, hbt, hfault, hline, hidle, same.f, same.rc, same.nv, same.inputs, same.tr⟩

/-! ### The first edge -/

/-- A request that leaves the block busy enters a frame at its first segment and does not drive the line (rules R130,
R141, R160). -/
theorem exec_enters_frame {i : Instr} (hi : isRequest i = true) (h : exec i s = .next t) (hb : t.busy = true) :
    s.busy = false ∧ t.line = s.line ∧ t.seq.half = false ∧ (t.seq.ph = .wake ∨ t.seq.ph = .hwsync) := by
  cases exec_cases h with
  | moves c _ hr ht => simp [ht, hr.2]
  | transmits n _ hr hn hv ht =>
    subst ht
    refine ⟨hr.2, rfl, ?_⟩
    unfold startFrame
    split <;> simp
  | builds c _ hr ht => simp [ht, hr.2] at hb
  | raises n _ hr hn ht => simp [ht] at hb
  | loads _ hr ht => simp [ht, hr.2] at hb
  | saves _ hr ht => simp [ht, hr.2] at hb
  | sends b hd => cases b <;> cases hd <;> cases hi

/-- Settles O43: the wake-up and the hardware sync begin with a high. -/
theorem transmissionStartsWithRisingEdge : Obligations.TransmissionStartsWithRisingEdge := by
  intro i s t h hi he hb hp
  obtain ⟨idle, line, half, ph⟩ := exec_enters_frame hi he hb
  have due : ∃ n, t.seq.ph.sending = true ∧ dueSegment t = some (true, n) := by
    rcases ph with ph | ph <;> simp [dueSegment, ph, half, Phase.sending]
  obtain ⟨n, sending, due⟩ := due
  have low : t.line = false := line.trans (h.restLow (not_sending_of_idle h idle))
  exact ⟨low, _, n, step_sending hb hp sending due, by simp, by simp⟩

end Sys2Proof.Machine
end

section
/-! Scope: the burst controller: MOVE from its acceptance to the end of its burst, its named form, and its equivalence
with BUILD and the transmissions (rules R160 to R172). -/

namespace Sys2Proof.Machine

variable {s t u : State}

/-! ### MOVE on a ready block -/

theorem exec_moveInstr (c : CommandCode) (hr : Ready s) : exec (moveInstr c) s = .next (startBurst c s) := by
  obtain ⟨hf, hb⟩ := hr
  cases c <;> exact whenIdle_idle hf hb

theorem slotWritten_startBurst (c : CommandCode) (s : State) : SlotWritten (s.rc + 1) s (startBurst c s) :=
  ⟨rfl, rfl⟩

/-- Settles O41: `startBurst` is `buildFrame` and the start of the first frame. -/
theorem moveAcceptance : Obligations.MoveAcceptance := fun c s hr =>
  ⟨buildFrame c s, exec_buildInstr c hr, exec_moveInstr c hr⟩

/-- An idle block takes a named move as the word it resolves to (rules R77, R172). -/
theorem step_moveName {text : List Byte} {rest : List Input} (hi : s.inputs = .moveName text :: rest)
    (hb : s.busy = false) : step s = present (moveWord text) { s with inputs := rest } := by
  simp [step, hi, takeInput, hb]

/-- Settles O46: the word of the name decodes to the MOVE of the resolved command. -/
theorem stepRunsNamedMove : Obligations.StepRunsNamedMove := by
  intro s text rest ⟨hf, hb⟩ hi
  exact (step_moveName hi hb).trans (present_ok hf hb (decode_moveWord text))

/-! ### The burst -/

/-- A burst from its wake-up to the end of the operation: the first frame, which a repeat follows, then the repeats
(rules R165, R166). -/
theorem run_burst (hb : s.busy = true) (hp : Patient s) (hn : s.nsync = Config.nSyncFirst) (hburst : s.burst = true)
    (c : BitVec 3) (bit : BitVec 6) (l : Bool) (tm : BitVec 17) (tr : List Event) :
    run (122 + 129 * s.cfg.kRepeat) (placed s ⟨.wake, false, c, bit, 0⟩ l tm tr) =
      .next (finished { s with nsync := 7 } 6 (BitVec.ofNat 3 s.cfg.kRepeat)
        (tr ++ traceOf (burstSegs s.cfg s.f))) := by
  have atLeastOne : 1 ≤ s.cfg.kRepeat := by rcases s.cfg.kRepeat_cases with h | h <;> omega
  obtain ⟨m, hm⟩ := Nat.exists_eq_add_of_le atLeastOne
  obtain ⟨l₁, tm₁, wake⟩ := run_wake hb hp c bit 0 l tm tr
  obtain ⟨l₂, tm₂, first⟩ := run_repeated_frame hb hp 1 (by rw [hn]; rfl) (by decide) bit 0 l₁ tm₁
    (tr ++ traceOf (wakeSegs s.cfg)) hburst (by simp [hm])
  have repeats := run_repeats (s := { s with nsync := 7 }) hb hp rfl hburst m 1 55 l₂ tm₂
    (tr ++ traceOf (frameSegs s.cfg 2 s.f)) hm.symm
  rw [List.append_assoc, ← traceOf_append, ← frameSegs_first] at first
  refine run_trans (j := 2) (k := 119 + (129 * (m + 1) + 1)) (by omega) wake (run_trans rfl first (repeats.trans ?_))
  simp [burstSegs, hm, Nat.add_comm, Config.nSyncFirst, Config.nSyncRepeat]

/-- Rule R160: the burst of an accepted MOVE. -/
theorem run_startBurst (c : CommandCode) (hp : Patient s) :
    run (122 + 129 * s.cfg.kRepeat) (startBurst c s) =
      .next (finished { startBurst c s with nsync := 7 } 6 (BitVec.ofNat 3 s.cfg.kRepeat)
        ((buildFrame c s).tr ++ traceOf (burstSegs s.cfg (buildFrame c s).f))) :=
  run_burst (s := startBurst c s) rfl hp rfl rfl s.seq.cnt s.seq.bit s.line s.timer (buildFrame c s).tr

/-- A finished MOVE leaves a block that was idle before as BUILD leaves it, but for the sequencer's own registers. -/
theorem finished_startBurst (hb : s.busy = false) (c : CommandCode) (m : Nat) (frm : BitVec 3) (tr : List Event) :
    finished { startBurst c s with nsync := 7 } m frm tr = { buildFrame c s with
      line := false, timer := 0, nsync := 7, burst := true
      seq := { ph := .idle, half := false, cnt := BitVec.ofNat 3 m, bit := 55, frm := frm }
      tr := tr } := by
  cases s
  cases hb
  rfl

/-- Settles O40: the acceptance writes the slot, and the burst runs from its wake-up. -/
theorem moveSendsBurst : Obligations.MoveSendsBurst := by
  intro c s hr hp
  have sent := run_startBurst c hp
  rw [finished_startBurst hr.2, buildFrame_tr, List.append_assoc] at sent
  exact ⟨startBurst c s, exec_moveInstr c hr, rfl, rfl, slotRead_slotWrite _ _ _ _,
    fun _ hx => (slotWritten_startBurst c s).read_outside hx, sent⟩

/-! ### MOVE and the sequence of BUILD and transmissions -/

/-- The segments `gs` were sent from `s` to their end: the block is idle with the line low, and what BUILD writes is
as it was (rules R13, R130). -/
structure Transmitted (gs : List Segment) (s t : State) : Prop where
  busy : t.busy = false
  line : t.line = false
  tr : t.tr = s.tr ++ traceOf gs
  cfg : t.cfg = s.cfg
  f : t.f = s.f
  fv : t.fv = s.fv
  fault : t.fault = s.fault
  rc : t.rc = s.rc
  cmd : t.cmd = s.cmd
  nv : t.nv = s.nv

theorem transmitted_nil (hb : s.busy = false) (hl : s.line = false) (rest : List Input) :
    Transmitted [] s { s with inputs := rest } :=
  ⟨hb, hl, (List.append_nil _).symm, rfl, rfl, rfl, rfl, rfl, rfl, rfl⟩

theorem Transmitted.append {gs hs : List Segment} (hst : Transmitted gs s t) (htu : Transmitted hs t u) :
    Transmitted (gs ++ hs) s u where
  busy := htu.busy
  line := htu.line
  tr := by rw [htu.tr, hst.tr, traceOf_append, List.append_assoc]
  cfg := htu.cfg.trans hst.cfg
  f := htu.f.trans hst.f
  fv := htu.fv.trans hst.fv
  fault := htu.fault.trans hst.fault
  rc := htu.rc.trans hst.rc
  cmd := htu.cmd.trans hst.cmd
  nv := htu.nv.trans hst.nv

theorem transmitted_tx (gs : List Segment) (n : Nibble) (m : Nat) :
    Transmitted gs s (finished (accepted n s) m 0 (s.tr ++ traceOf gs)) :=
  ⟨rfl, rfl, rfl, rfl, rfl, rfl, rfl, rfl, rfl, rfl⟩

theorem transmitted_move (c : CommandCode) (gs : List Segment) (rest : List Input) (m : Nat) (frm : BitVec 3) :
    Transmitted gs (buildFrame c s) (finished { startBurst c { s with inputs := rest } with nsync := 7 } m frm
      ((buildFrame c s).tr ++ traceOf gs)) :=
  ⟨rfl, rfl, rfl, rfl, rfl, rfl, rfl, rfl, rfl, rfl⟩

/-- A ready block is ready again after a transmission. -/
theorem Transmitted.ready {gs : List Segment} (h : Transmitted gs s t) (hr : Ready s) : Ready t :=
  ⟨h.fault.trans hr.1, h.busy⟩

/-- A ready block performs the word a waiting host presents. -/
theorem step_word {w : Byte} {i : Instr} (hr : Ready s) (hd : decode w = .ok i) (rest : List Input) :
    step { s with inputs := .opw w :: rest } = exec i { s with inputs := rest } :=
  (step_opw (s := { s with inputs := _ }) rfl hr.2).trans (present_ok hr.1 hr.2 hd)

theorem decode_moveOpw (c : CommandCode) : decode (0x10 ||| c.code.setWidth 8) = .ok (moveInstr c) := by
  cases c <;> rfl

theorem decode_buildOpw (c : CommandCode) : decode (0x20 ||| c.code.setWidth 8) = .ok (buildInstr c) := by
  cases c <;> rfl

theorem patient_replicate (k : Nat) (w : Byte) : Patient { s with inputs := List.replicate k (.opw w) } := by
  cases k <;> simp [Patient, List.replicate_succ, waitsForIdle]

/-- The word 0x32, and the first frame it sends. -/
theorem run_word_txFirst (hr : Ready s) (hv : s.fv = true) {rest : List Input}
    (hp : Patient { s with inputs := rest }) :
    ∃ t, run 123 { s with inputs := .opw 0x32 :: rest } = .next { t with inputs := rest } ∧
      Transmitted (frameSegs s.cfg 2 s.f) s t := by
  have accept := (step_word (w := 0x32) hr rfl rest).trans (exec_txFirst (s := { s with inputs := rest }) hr hv)
  exact ⟨_, (run_succ_next 122 accept).trans (run_startFrame_first hp), transmitted_tx _ 2 1⟩

/-- The word 0x37, and the repeat frame it sends. -/
theorem run_word_txRepeat (hr : Ready s) (hv : s.fv = true) {rest : List Input}
    (hp : Patient { s with inputs := rest }) :
    ∃ t, run 131 { s with inputs := .opw 0x37 :: rest } = .next { t with inputs := rest } ∧
      Transmitted (frameSegs s.cfg 7 s.f) s t := by
  have accept := (step_word (w := 0x37) hr rfl rest).trans (exec_txRepeat (s := { s with inputs := rest }) hr hv)
  exact ⟨_, (run_succ_next 130 accept).trans (run_startFrame_repeat hp), transmitted_tx _ 7 6⟩

/-- The words 0x37 of a waiting host, and the repeat frames they send. -/
theorem run_words_txRepeat (k : Nat) (hr : Ready s) (hl : s.line = false) (hv : s.fv = true) :
    ∃ t, run (131 * k) { s with inputs := List.replicate k (.opw 0x37) } = .next t ∧
      Transmitted (List.replicate k (frameSegs s.cfg 7 s.f)).flatten s t := by
  induction k generalizing s with
  | zero => exact ⟨_, rfl, transmitted_nil hr.2 hl []⟩
  | succ k ih =>
    obtain ⟨t, first, sent⟩ := run_word_txRepeat hr hv (patient_replicate k 0x37)
    obtain ⟨u, rest, sentRest⟩ := ih (sent.ready hr) sent.line (sent.fv.trans hv)
    rw [sent.cfg, sent.f] at sentRest
    exact ⟨u, run_trans (by ring) first rest, sent.append sentRest⟩

/-- The words of a first frame and `K_REPEAT` repeats send the segments of a burst (rule R171). -/
theorem run_words_burst (hr : Ready s) (hv : s.fv = true) :
    ∃ t, run (123 + 131 * s.cfg.kRepeat)
        { s with inputs := .opw 0x32 :: List.replicate s.cfg.kRepeat (.opw 0x37) } = .next t ∧
      Transmitted (burstSegs s.cfg s.f) s t := by
  obtain ⟨t, first, sent⟩ := run_word_txFirst hr hv (patient_replicate s.cfg.kRepeat 0x37)
  obtain ⟨u, rest, sentRest⟩ := run_words_txRepeat s.cfg.kRepeat (sent.ready hr) sent.line (sent.fv.trans hv)
  rw [sent.cfg, sent.f] at sentRest
  exact ⟨u, run_trans rfl first rest, sent.append sentRest⟩

/-- The word of MOVE, and the burst it sends of the frame BUILD leaves. -/
theorem run_word_move (c : CommandCode) (hr : Ready s) :
    ∃ t, run (123 + 129 * s.cfg.kRepeat) { s with inputs := [.opw (0x10 ||| c.code.setWidth 8)] } = .next t ∧
      Transmitted (burstSegs s.cfg (buildFrame c s).f) (buildFrame c s) t := by
  have accept := (step_word hr (decode_moveOpw c) []).trans (exec_moveInstr (s := { s with inputs := [] }) c hr)
  have sent := run_startBurst (s := { s with inputs := [] }) c (by simp [Patient])
  exact ⟨_, run_trans (j := 1) (by ring) (run_one accept) sent, transmitted_move c _ [] 6 _⟩

/-- The word of BUILD and those of a burst, which send the frame BUILD leaves. -/
theorem run_words_build_burst (c : CommandCode) (hr : Ready s) :
    ∃ t, run (124 + 131 * s.cfg.kRepeat)
        { s with inputs := .opw (0x20 ||| c.code.setWidth 8) :: .opw 0x32 ::
            List.replicate s.cfg.kRepeat (.opw 0x37) } = .next t ∧
      Transmitted (burstSegs s.cfg (buildFrame c s).f) (buildFrame c s) t := by
  have build := (step_word hr (decode_buildOpw c) (.opw 0x32 :: List.replicate s.cfg.kRepeat (.opw 0x37))).trans
    (exec_buildInstr c hr)
  obtain ⟨t, words, sent⟩ := run_words_burst (s := buildFrame c s) hr rfl
  rw [buildFrame_cfg] at words
  exact ⟨t, run_trans (j := 1) (by ring) (run_one build) words, sent⟩

/-- Settles O42: both runs send the burst of the frame BUILD leaves, and what they end with follows from that. -/
theorem moveEqualsBuildAndTransmissions : Obligations.MoveEqualsBuildAndTransmissions := by
  intro c s hr
  obtain ⟨u, runMove, move⟩ := run_word_move c hr
  obtain ⟨v, runWords, words⟩ := run_words_build_burst c hr
  exact ⟨u, v, runMove, runWords, move.busy, words.busy, move.tr.trans words.tr.symm, move.f.trans words.f.symm,
    move.fv.trans words.fv.symm, move.rc.trans words.rc.symm, move.nv.trans words.nv.symm,
    move.cmd.trans words.cmd.symm, move.line.trans words.line.symm⟩

end Sys2Proof.Machine
end

section
/-! Scope: the request port: the word a step performs or refuses, and what a host that presents MOVE words only can
rely on (rules R185 to R192). -/

namespace Sys2Proof.Machine

variable {s t : State} {w : Byte}

/-! ### The word performed -/

/-- A word presented at once reaches the port whatever the block is doing (rule R189). -/
theorem step_opwNow {rest : List Input} (hi : s.inputs = .opwNow w :: rest) :
    step s = present w { s with inputs := rest } := by
  simp [step, hi, takeInput]

/-- Settles O44: both ways to present a word put it to the same tests, which a ready block passes. -/
theorem stepRunsDecodedOperation : Obligations.StepRunsDecodedOperation := by
  rintro s w i rest ⟨hf, hb⟩ hd (hi | hi)
  · exact (step_opw hi hb).trans (present_ok hf hb hd)
  · exact (step_opwNow hi).trans (present_ok hf hb hd)

/-! ### The tests of a word, in their order -/

/-- Settles O48: every operation a host can request is admitted by the first two tests. -/
theorem operationsRefusedWhenNotReady : Obligations.OperationsRefusedWhenNotReady := by
  intro i s hi
  obtain ⟨go, he⟩ := exec_request hi s
  rw [he]
  exact ⟨whenIdle_faulted, whenIdle_busy⟩

/-- A ready block refuses a word that does not decode by the decoder's reason (rule R191 items c and d). -/
theorem present_error {r : Reject} (hr : Ready s) (hd : decode w = .error r) :
    present w s = .refused (refusalOf r) := by
  rw [present, whenIdle_idle hr.1 hr.2, hd]

/-- A ready block performs every word that decodes, but for TX.INVALID and for TX without a frame (rule R187). -/
theorem exec_completes {i : Instr} (hr : Ready s) (hd : decode w = .ok i) (hn : ∀ n, i ≠ .txInvalid n)
    (hv : i = .txFirst ∨ i = .txRepeat → s.fv = true) : ∃ t, exec i s = .next t := by
  cases decode_cases w with
  | moves c _ _ hw => cases hd.symm.trans hw; exact ⟨_, exec_moveInstr c hr⟩
  | builds c _ _ hw => cases hd.symm.trans hw; exact ⟨_, exec_buildInstr c hr⟩
  | transmitsFirst _ _ hw => cases hd.symm.trans hw; exact ⟨_, exec_txFirst hr (hv (.inl rfl))⟩
  | transmitsRepeat _ _ hw => cases hd.symm.trans hw; exact ⟨_, exec_txRepeat hr (hv (.inr rfl))⟩
  | invalidCount _ _ _ hw => cases hd.symm.trans hw; exact absurd rfl (hn _)
  | loads _ _ hw => cases hd.symm.trans hw; exact ⟨_, exec_load hr⟩
  | saves _ _ hw => cases hd.symm.trans hw; exact ⟨_, exec_save hr⟩
  | badCommand _ _ hw => cases hd.symm.trans hw
  | reserved _ hw => cases hd.symm.trans hw

/-- Settles O47: the first two tests are those of admission, the third is the decoder's, and the rest are the
operation's own. -/
theorem requestTestsInOrder : Obligations.RequestTestsInOrder := by
  intro s w rest hi
  rw [step_opwNow hi]
  let u : State := { s with inputs := rest }
  refine ⟨whenIdle_faulted (s := u), whenIdle_busy (s := u), present_error (s := u), present_error (s := u),
    fun n hr hd => ?_, fun hr hw hv => ?_, fun i hr hd hn hv => ?_⟩
  all_goals have performed : ∀ {i}, decode w = .ok i → present w u = exec i u := present_ok hr.1 hr.2
  · exact (performed hd).trans (txOp_invalid hr (decode_txInvalid hd))
  · rcases hw with rfl | rfl
    · exact (performed rfl).trans (txOp_noFrame hr rfl hv)
    · exact (performed rfl).trans (txOp_noFrame hr rfl hv)
  · obtain ⟨t, ht⟩ := exec_completes (s := u) hr hd hn hv
    exact ⟨t, (performed hd).trans ht, (exec_keeps_fault ht hn).1.trans hr.1⟩

/-! ### What a step can refuse -/

/-- The input `a` puts the word `w` on the request port: at once, when the block is idle, or by its name (rules R77,
R172, R189, R215). -/
abbrev Presents (a : Input) (w : Byte) : Prop :=
  a = .opw w ∨ a = .opwNow w ∨ ∃ text, a = .moveName text ∧ w = moveWord text

theorem proceed_ne_refused (s : State) (r : Refusal) : proceed s ≠ .refused r := by
  unfold proceed
  split
  · exact advance_ne_refused r
  · simp

theorem tickOnce_ne_refused (s : State) (r : Refusal) : tickOnce s ≠ .refused r := by
  unfold tickOnce
  split
  · exact advance_ne_refused r
  · simp

/-- Only a word on the request port is refused (rule R191). -/
theorem step_refused {r : Refusal} (h : step s = .refused r) :
    ∃ a w rest, s.inputs = a :: rest ∧ Presents a w ∧ present w { s with inputs := rest } = .refused r := by
  have waiting : ∀ w rest, (if s.busy then proceed s else present w { s with inputs := rest }) = .refused r →
      present w { s with inputs := rest } = .refused r := by
    intro w rest h
    split at h
    · exact absurd h (proceed_ne_refused s r)
    · exact h
  unfold step at h
  split at h
  · exact absurd h (proceed_ne_refused s r)
  · rename_i a rest hi
    cases a with
    | opw w => exact ⟨_, w, rest, hi, .inl rfl, waiting w rest h⟩
    | moveName text => exact ⟨_, _, rest, hi, .inr (.inr ⟨text, rfl, rfl⟩), waiting _ rest h⟩
    | opwNow w => exact ⟨_, w, rest, hi, .inr (.inl rfl), h⟩
    | tick =>
      simp only [takeInput] at h
      split at h
      · exact absurd h (tickOnce_ne_refused _ r)
      · cases h
    | reset fate set => cases h

/-! ### Runs -/

/-- What every step keeps, every run keeps. -/
theorem run_keeps {P : State → Prop} (hP : ∀ {s t}, P s → step s = .next t → P t) {k : Nat} (hs : P s)
    (h : run k s = .next t) : P t := by
  induction k generalizing s with
  | zero => cases h; exact hs
  | succ k ih =>
    obtain ⟨u, hstep, hrun⟩ := exists_step_of_run_succ h
    exact ih (hP hs hstep) hrun

/-- A run that ends refused comes to a state whose step is refused. -/
theorem exists_refused_step_of_run {k : Nat} {r : Refusal} (h : run k s = .refused r) :
    ∃ j t, run j s = .next t ∧ step t = .refused r := by
  induction k generalizing s with
  | zero => cases h
  | succ k ih =>
    rw [run] at h
    split at h
    · obtain ⟨j, t, hrun, hstep⟩ := ih h
      exact ⟨j + 1, t, (run_succ_next j ‹_›).trans hrun, hstep⟩
    · cases h
    · cases h
      exact ⟨0, s, rfl, ‹_›⟩

/-! ### A host that presents MOVE words only -/

/-- Every word such a host presents is a MOVE (rules R77, R192). -/
theorem decode_of_moveOnlyInput {a : Input} (ha : moveOnlyInput a = true) (hp : Presents a w) :
    ∃ c, decode w = .ok (moveInstr c) := by
  have word : (w = 0x11 ∨ w = 0x12 ∨ w = 0x14 ∨ w = 0x18) → ∃ c, decode w = .ok (moveInstr c) := by
    rintro (rfl | rfl | rfl | rfl)
    exacts [⟨.my, rfl⟩, ⟨.up, rfl⟩, ⟨.down, rfl⟩, ⟨.program, rfl⟩]
  rcases hp with rfl | rfl | ⟨text, rfl, rfl⟩
  · exact word (of_decide_eq_true ha)
  · exact word (of_decide_eq_true ha)
  · exact ⟨_, decode_moveWord text⟩

theorem moveInstr_ne_txInvalid (c : CommandCode) (n : Nibble) : moveInstr c ≠ .txInvalid n := by
  cases c <;> simp [moveInstr]

theorem moveOnly_step (hm : MoveOnly s) (h : step s = .next t) : MoveOnly t :=
  fun i hi => hm i ((step_environment h).1 hi)

/-- `FAULT` rises only by a TX.INVALID word, which is no MOVE (rules R181, R192). -/
theorem safe_step (hm : MoveOnly s) (hs : Safe s) (h : step s = .next t) : Safe t := by
  by_contra ht
  obtain ⟨w, n, rest, hi, hd, -⟩ := step_sets_fault h hs (by simpa using ht)
  have presented : ∃ a, a ∈ s.inputs ∧ Presents a w := by
    rcases hi with hi | hi
    · exact ⟨_, by rw [hi]; exact List.mem_cons_self, .inl rfl⟩
    · exact ⟨_, by rw [hi]; exact List.mem_cons_self, .inr (.inl rfl)⟩
  obtain ⟨a, ha, hp⟩ := presented
  obtain ⟨c, hc⟩ := decode_of_moveOnlyInput (hm a ha) hp
  exact moveInstr_ne_txInvalid c n (Except.ok.inj (hc.symm.trans hd))

/-- An unfaulted block refuses a MOVE word only while it is busy (rules R187, R189). -/
theorem present_move_refused {c : CommandCode} {r : Refusal} (hs : Safe s) (hd : decode w = .ok (moveInstr c))
    (h : present w s = .refused r) : r = .busy := by
  cases hb : s.busy with
  | true =>
    rw [present, whenIdle_busy hs hb] at h
    cases h
    rfl
  | false =>
    rw [present_ok hs hb hd, exec_moveInstr c ⟨hs, hb⟩] at h
    cases h

/-- An unfaulted block refuses such a host nothing but a word presented while it is busy (rules R189, R192). -/
theorem step_refused_of_moveOnly (hm : MoveOnly s) (hs : Safe s) {r : Refusal} (h : step s = .refused r) :
    r = .busy := by
  obtain ⟨a, w, rest, hi, hp, h⟩ := step_refused h
  obtain ⟨c, hd⟩ := decode_of_moveOnlyInput (hm a (by simp [hi])) hp
  exact present_move_refused (s := { s with inputs := rest }) hs hd h

/-- Settles O50: every step keeps the host's inputs and an unfaulted block, and refuses for nothing but `BUSY`. -/
theorem moveOnlyHostIsSafe : Obligations.MoveOnlyHostIsSafe := by
  intro s hs hm
  have kept : ∀ {t u : State}, Safe t ∧ MoveOnly t → step t = .next u → Safe u ∧ MoveOnly u :=
    fun ⟨ht, hmt⟩ h => ⟨safe_step hmt ht h, moveOnly_step hmt h⟩
  have reached : ∀ {k t}, run k s = .next t → Safe t ∧ MoveOnly t := run_keeps kept ⟨hs, hm⟩
  have notRefused : ∀ {k r}, r ≠ .busy → run k s ≠ .refused r := by
    intro k r hr h
    obtain ⟨j, t, hrun, hstep⟩ := exists_refused_step_of_run h
    obtain ⟨ht, hmt⟩ := reached hrun
    exact hr (step_refused_of_moveOnly hmt ht hstep)
  exact ⟨fun k t => reached, fun k => ⟨notRefused (by decide), notRefused (by decide), notRefused (by decide),
    notRefused (by decide)⟩⟩

/-! ### No stale frame -/

/-- A transmission of such a host starts with the acceptance of a MOVE (rule R160). -/
theorem startBurst_of_becomes_busy (hm : MoveOnly s) (h : step s = .next t) (hs : s.busy = false)
    (ht : t.busy = true) : ∃ c rest, t = startBurst c { s with inputs := rest } := by
  cases step_cases h with
  | rests rest hb hi he => simp [he, hs] at ht
  | advances rest hb => cases hs.symm.trans hb
  | elapses rest hb => cases hs.symm.trans hb
  | performs w i a rest hr hi ha hd he =>
    obtain ⟨c, hc⟩ := decode_of_moveOnlyInput (hm a (by simp [hi])) ha
    cases hc.symm.trans hd
    rw [exec_moveInstr (s := { s with inputs := rest }) c hr] at he
    cases he
    exact ⟨c, rest, rfl⟩
  | resets fate set rest hi he => simp [he] at ht

/-- The frame a MOVE builds carries the code it consumed (rules R110, R160). -/
theorem carriesLatestCode_startBurst (c : CommandCode) (s : State) : CarriesLatestCode (startBurst c s) := by
  refine ⟨rfl, rfl, c, ?_, rfl⟩
  rw [startBurst_f, startBurst_cfg, startBurst_addr, startBurst_rc, BitVec.add_sub_cancel]

/-- A reset leaves the block idle (rule R210), so a step into a busy state is none. -/
theorem resetNext_eq_false_of_busy (h : step s = .next t) (ht : t.busy = true) : resetNext s = false := by
  unfold resetNext
  split
  · rename_i hi
    rw [step_reset hi] at h
    cases h
    cases ht
  · rfl

/-- A transmission that goes on keeps the frame, and the code it carries is still the one before `RC` (rule R13). -/
theorem carriesLatestCode_of_stays_busy (h : step s = .next t) (hs : s.busy = true) (ht : t.busy = true)
    (hc : CarriesLatestCode s) : CarriesLatestCode t := by
  obtain ⟨hf, hfv, hcmd, hrc, haddr, -, hcfg, hburst⟩ :=
    frameIsStableWhileBusy s t hs (resetNext_eq_false_of_busy h ht) h
  rwa [CarriesLatestCode, hf, hfv, hcmd, hrc, haddr, hcfg, hburst]

theorem carriesLatestCode_step (hm : MoveOnly s) (hc : s.busy = true → CarriesLatestCode s) (h : step s = .next t)
    (ht : t.busy = true) : CarriesLatestCode t := by
  cases hs : s.busy with
  | true => exact carriesLatestCode_of_stays_busy h hs ht (hc hs)
  | false =>
    obtain ⟨c, rest, rfl⟩ := startBurst_of_becomes_busy hm h hs ht
    exact carriesLatestCode_startBurst c _

/-- The host presents MOVE words only, and a busy block sends the frame of its latest code. -/
abbrev FreshMoveOnly (s : State) : Prop := MoveOnly s ∧ (s.busy = true → CarriesLatestCode s)

theorem freshMoveOnly_step (h : FreshMoveOnly s) (hst : step s = .next t) : FreshMoveOnly t := by
  obtain ⟨hm, hc⟩ := h
  exact ⟨moveOnly_step hm hst, carriesLatestCode_step hm hc hst⟩

/-- Settles O51: a busy block is one in a burst of the latest MOVE, and every step keeps that. -/
theorem moveOnlyHostSendsNoStaleFrame : Obligations.MoveOnlyHostSendsNoStaleFrame := by
  intro s _ hm hc k t u hrun hstep
  obtain ⟨hmt, hct⟩ := run_keeps freshMoveOnly_step ⟨hm, hc⟩ hrun
  refine ⟨hct, fun ht hu => ?_, fun ht hu => ?_⟩
  · obtain ⟨c, rest, rfl⟩ := startBurst_of_becomes_busy hmt hstep ht hu
    exact ⟨rfl, carriesLatestCode_startBurst c _⟩
  · obtain ⟨hf, -, -, hrc, -⟩ := frameIsStableWhileBusy t u ht (resetNext_eq_false_of_busy hstep hu) hstep
    exact ⟨hrc, hf⟩

end Sys2Proof.Machine
end

section
/-! Scope: reset: what it leaves in every state, and the state after it (rules R53, R210 to R212, R222). -/

namespace Sys2Proof.Machine

/-! ### The read of a reset -/

/-- The loss of the slot leaves every byte outside it (rule R53). -/
theorem read_storeAfter_outside (fate : StoreFate) (cfg : Cfg) (m : Memory) {x : Nat}
    (hx : x < slotAddr cfg ∨ slotAddr cfg + 4 ≤ x) : (storeAfter fate cfg m).read x = m.read x := by
  cases fate with
  | kept => rfl
  | lost => exact read_slotErase_outside _ _ _ hx

/-- The result of the one read of a reset (rule R212). -/
def resetRead (fate : StoreFate) (set : Settings) (s : State) : Option Word :=
  memReadValue (resetRegisters set { s with nv := storeAfter fate s.cfg s.nv })

section resetRead
variable (fate : StoreFate) (set : Settings) (s : State)

/-- The draw still to come decides the read of a reset, and the slot is the one the reset leaves. -/
theorem resetRead_drawn :
    (resetRead fate set s = none ∨ resetRead fate set s = slotOf (resetBlock fate set s)) ∧
    (s.readDraws.head? = some false → resetRead fate set s = slotOf (resetBlock fate set s)) ∧
    (s.readDraws.head? = some true → resetRead fate set s = none) :=
  memReadValue_drawn (resetRegisters set { s with nv := storeAfter fate s.cfg s.nv })

theorem slotOf_resetBlock_lost : slotOf (resetBlock .lost set s) = none := by
  rw [slotOf_resetBlock, storeAfter, slotRead_slotErase]

theorem resetRead_lost : resetRead .lost set s = none := by
  obtain ⟨h | h, -⟩ := resetRead_drawn .lost set s
  · exact h
  · rw [h, slotOf_resetBlock_lost]

/-- Every field of a reset block is that of `State.reset`, but for those that a reset takes from the settings, the
read or the environment (rules R210 to R212). -/
theorem resetBlock_eq : resetBlock fate set s = { State.reset with
    cfg := { s.cfg with toSettings := set }, f := (resetBlock fate set s).f, addr := set.addrCfg
    rc := (resetRead fate set s).getD 1, nv := (resetBlock fate set s).nv
    tr := [.nvRead (slotAddr s.cfg) (resetRead fate set s)], inputs := s.inputs
    readDraws := s.readDraws.tail, drawCount := (resetBlock fate set s).drawCount } := rfl

end resetRead

/-- Settles O55: the reset is taken at once; its store is the one before or that without the slot, and its read
gives what its draw lets it. -/
theorem resetLeaves : Obligations.ResetLeaves := by
  intro s fate set rest hi
  let s₀ : State := { s with inputs := rest }
  refine ⟨resetBlock fate set s₀, resetRead fate set s₀, step_reset hi, resetBlock_eq fate set s₀, ?_, ?_,
    fun x hx => read_storeAfter_outside fate s.cfg s.nv hx, resetRead_drawn fate set s₀⟩
  · rintro rfl
    rfl
  · rintro rfl
    exact ⟨resetRead_lost set s₀, slotOf_resetBlock_lost set s₀⟩

/-! ### The state after reset -/

/-- Settles O56: `State.reset` lists each value, `RC_INIT` is 1 and the slot of `REF` is where its one read was. -/
theorem resetStateValues : Obligations.ResetStateValues :=
  ⟨rfl, rfl, rfl, rfl, rfl, rfl, rfl, rfl, rfl, rfl, rfl, rfl, rfl, rfl, rfl⟩

/-- Settles O57: `State.reset` is the reset of a block whose store was never written, with `REF` inside its
constraints. -/
theorem resetSatisfiesInvariant : Obligations.ResetSatisfiesInvariant := by
  have hset : Cfg.ref.toSettings.Ok := by decide
  unfold Obligations.ResetSatisfiesInvariant
  rw [reset_is_power_up]
  exact inv_resetBlock hset (by simp [State.reset]) List.Pairwise.nil

end Sys2Proof.Machine
end
